-- ==== Sys2Proof/Word.lean ====
section
/-!
DEFINITION. The word types of PXE and the small closed types its operands are made of
(spec/00_scope.md R10, R11; spec/30_encoding.md R81).
-/

namespace Sys2Proof

/-- One byte: a channel, a factor, a fraction, a brightness, a count, a colour id (R10, R81). -/
abbrev Byte := BitVec 8

/-- One 32-bit word: a lane, the accumulator, the mask, the response (R10). -/
abbrev Word := BitVec 32

/-- One command word (R80). -/
abbrev CommandWord := BitVec 64

/-- One sample of the entropy port, in 0..4095 (R10, R34). -/
abbrev Sample := BitVec 12

/-- A pixel in the logical view: three 8-bit channels (R12, R51, R110). -/
structure Pixel where
  r : Byte
  g : Byte
  b : Byte
deriving DecidableEq, Repr, Inhabited

/-- `BLACK` is (0, 0, 0) (R12). -/
def Pixel.black : Pixel := ⟨0, 0, 0⟩

/-- Rotation direction, the `DIR` field: 0 is UP, 1 is DOWN (R81, R154). -/
inductive Dir where
  | up
  | down
deriving DecidableEq, Repr

/-- Rotation scope, the `SCOPE` field without its reserved value (R81, R150). -/
inductive Scope where
  | inner
  | outer
  | all
deriving DecidableEq, Repr

end Sys2Proof
end

