-- ==== Sys2Proof/Syntax.lean ====
section
/-!
DEFINITION. The commands of PXE: one constructor for each row of spec/opcode_table.json
(spec/30_encoding.md R83, R85). Every operand is exactly as wide as its field (R81, R84), so every term is a command
the encoding can express (spec/40_pixel_alu.md R110).
-/

namespace Sys2Proof

/-- One command of PXE. Operand order is the assembler's (R88). -/
inductive Instr where
  /-- NOP (R130) -/
  | nop
  /-- PXRGB r, g, b (R111) -/
  | pxrgb (r g b : Byte)
  /-- PXINT #RRGGBB (R112) -/
  | pxint (v : BitVec 24)
  /-- PXPAL cid (R113) -/
  | pxpal (cid : Byte)
  /-- SCALE #p, f (R114) -/
  | scale (p : Pixel) (f : Byte)
  /-- ADD #a, #b (R115) -/
  | add (a b : Pixel)
  /-- MIX #a, #b, f (R116) -/
  | mix (a b : Pixel) (f : Byte)
  /-- SET idx, #p (R131) -/
  | setPx (idx : BitVec 16) (p : Pixel)
  /-- GET idx (R132) -/
  | getPx (idx : BitVec 16)
  /-- CLR idx (R133) -/
  | clrPx (idx : BitVec 16)
  /-- CLRALL (R134) -/
  | clrAll
  /-- SETALL #p (R135) -/
  | setAll (p : Pixel)
  /-- SCALEALL f (R136) -/
  | scaleAll (f : Byte)
  /-- COPYOUT mask, f (R137) -/
  | copyOut (mask : Word) (f : Byte)
  /-- ROT.INNER dir, cnt (R156) -/
  | rotInner (dir : Dir) (cnt : Byte)
  /-- ROT.OUTER dir, cnt (R157) -/
  | rotOuter (dir : Dir) (cnt : Byte)
  /-- ROT.ALL dir, cnt (R158) -/
  | rotAll (dir : Dir) (cnt : Byte)
  /-- SHOW (R171) -/
  | showOut
  /-- NEXT32 (R192) -/
  | next32
  /-- RESEED (R198) -/
  | reseed
  /-- HARVEST32 (R196) -/
  | harvest32
deriving DecidableEq, Repr

end Sys2Proof
end

