-- ==== Sys2Proof/WellFormed.lean ====
section
/-!
DEFINITION. The assembler's command lines with plain numbers for operands (spec/30_encoding.md R88, R89), and the
checks that make a line well formed: each operand inside the range its field has (R81, R84). A term of `Instr` needs no
check: "every operand field is exactly as wide as its range, so no operand value is illegal" (R110).
`Sys2Proof.Machine.Source.assemble` turns a well-formed line into commands.
-/

namespace Sys2Proof

/-- One line of the assembler (R88) or one pseudo-command (R89). Pixels are numbers `0xRRGGBB`. -/
inductive Source where
  | nop
  | pxrgb (r g b : Nat)
  | pxint (v : Nat)
  | pxpal (cid : Nat)
  | scale (p f : Nat)
  | add (a b : Nat)
  | mix (a b f : Nat)
  | setPx (idx p : Nat)
  | getPx (idx : Nat)
  | clrPx (idx : Nat)
  | clrAll
  | setAll (p : Nat)
  | scaleAll (f : Nat)
  | copyOut (mask f : Nat)
  | rotInner (dir : Dir) (cnt : Nat)
  | rotOuter (dir : Dir) (cnt : Nat)
  | rotAll (dir : Dir) (cnt : Nat)
  | showOut
  | next32
  | reseed
  | harvest32
  /-- `COPYALL f` (R89) -/
  | copyAll (f : Nat)
  /-- `BLANK` (R89) -/
  | blank
  /-- `FRAME mask, f` (R89) -/
  | frame (mask f : Nat)
  /-- `ROT scope, dir, cnt` (R89) -/
  | rot (scope : Scope) (dir : Dir) (cnt : Nat)
deriving DecidableEq, Repr

/-- A channel, factor, fraction, brightness, count or colour id: 0..255 (R81). -/
def Source.fitsByte (v : Nat) : Bool := decide (v < 256)

/-- A pixel or a packed integer: 24 bits (R81). -/
def Source.fitsPixel (v : Nat) : Bool := decide (v < 16777216)

/-- An index: 16 bits unsigned, 0..65535 (R81, R55). -/
def Source.fitsIndex (v : Nat) : Bool := decide (v < 65536)

/-- A mask: 32 bits (R81). -/
def Source.fitsMask (v : Nat) : Bool := decide (v < 4294967296)

/-- A line is well formed when each operand is inside its field's range (R81, R84). -/
def Source.wf : Source → Bool
  | .nop => true
  | .pxrgb r g b => fitsByte r && fitsByte g && fitsByte b
  | .pxint v => fitsPixel v
  | .pxpal cid => fitsByte cid
  | .scale p f => fitsPixel p && fitsByte f
  | .add a b => fitsPixel a && fitsPixel b
  | .mix a b f => fitsPixel a && fitsPixel b && fitsByte f
  | .setPx idx p => fitsIndex idx && fitsPixel p
  | .getPx idx => fitsIndex idx
  | .clrPx idx => fitsIndex idx
  | .clrAll => true
  | .setAll p => fitsPixel p
  | .scaleAll f => fitsByte f
  | .copyOut mask f => fitsMask mask && fitsByte f
  | .rotInner _ cnt => fitsByte cnt
  | .rotOuter _ cnt => fitsByte cnt
  | .rotAll _ cnt => fitsByte cnt
  | .showOut => true
  | .next32 => true
  | .reseed => true
  | .harvest32 => true
  | .copyAll f => fitsByte f
  | .blank => true
  | .frame mask f => fitsMask mask && fitsByte f
  | .rot _ _ cnt => fitsByte cnt

end Sys2Proof
end

