-- ==== Sys2Proof/Decode.lean ====
section
/-!
DEFINITION. The 64-bit command word (spec/30_encoding.md R80 to R86): its fields, the decoder, the encoder, and the
packed form of a pixel (spec/20_memory.md R54).
-/

namespace Sys2Proof

/-! ### The packed form of a pixel (R54) -/

/-- `r ++ g ++ b`: red in bits 23:16, green in 15:8, blue in 7:0 (R54). -/
def Pixel.pack (p : Pixel) : BitVec 24 :=
  p.r.setWidth 24 <<< 16 ||| p.g.setWidth 24 <<< 8 ||| p.b.setWidth 24

/-- The pixel of a packed 24-bit integer (R54, R112). -/
def Pixel.ofPacked (v : BitVec 24) : Pixel :=
  ⟨v.extractLsb' 16 8, v.extractLsb' 8 8, v.extractLsb' 0 8⟩

/-! ### The fields of a command word (R81) -/

/-- `OP = cw[63:56]`. -/
def fieldOp (cw : CommandWord) : Byte := cw.extractLsb' 56 8

/-- `A = cw[55:32]`, packed. -/
def fieldA (cw : CommandWord) : BitVec 24 := cw.extractLsb' 32 24

/-- `B = cw[31:8]`, packed. -/
def fieldB (cw : CommandWord) : BitVec 24 := cw.extractLsb' 8 24

/-- `F = cw[7:0]`. -/
def fieldF (cw : CommandWord) : Byte := cw.extractLsb' 0 8

/-- `IDX = cw[31:16]`. -/
def fieldIdx (cw : CommandWord) : BitVec 16 := cw.extractLsb' 16 16

/-- `MASK = cw[39:8]`. -/
def fieldMask (cw : CommandWord) : Word := cw.extractLsb' 8 32

/-- `SCOPE = cw[17:16]`. -/
def fieldScope (cw : CommandWord) : BitVec 2 := cw.extractLsb' 16 2

/-- `DIR = cw[8]`: 0 is UP, 1 is DOWN. -/
def fieldDir (cw : CommandWord) : Dir := if cw.extractLsb' 8 1 = 1 then .down else .up

/-- `CNT = cw[7:0]`. -/
def fieldCnt (cw : CommandWord) : Byte := cw.extractLsb' 0 8

/-- `CID = cw[7:0]`. -/
def fieldCid (cw : CommandWord) : Byte := cw.extractLsb' 0 8

/-! ### The decoder -/

/-- Why a command word is no row of the opcode map: it is reserved (R86). -/
inductive Reserved where
  /-- An `OP` value that R85 does not list. -/
  | opcode (op : Byte)
  /-- `OP` = 0x30 with `SCOPE` = 3 (R159). -/
  | scope3
deriving DecidableEq, Repr

/-- `OP` = 0x30: the scope selects the row (R85); scope 3 is reserved (R159). -/
def decodeRot (cw : CommandWord) : Except Reserved Instr :=
  match (fieldScope cw).toNat with
  | 0 => .ok (.rotInner (fieldDir cw) (fieldCnt cw))
  | 1 => .ok (.rotOuter (fieldDir cw) (fieldCnt cw))
  | 2 => .ok (.rotAll (fieldDir cw) (fieldCnt cw))
  | _ => .error .scope3

/-- The opcode map of R85. It matches on `OP` alone (and on `SCOPE` for `OP` = 0x30): bits that a format does not use
are ignored (R82). A reserved word is rejected by name. -/
def decode (cw : CommandWord) : Except Reserved Instr :=
  match (fieldOp cw).toNat with
  | 0x00 => .ok .nop
  | 0x10 => .ok (.pxrgb (Pixel.ofPacked (fieldA cw)).r (Pixel.ofPacked (fieldA cw)).g (Pixel.ofPacked (fieldA cw)).b)
  | 0x11 => .ok (.pxint (fieldA cw))
  | 0x12 => .ok (.pxpal (fieldCid cw))
  | 0x13 => .ok (.scale (Pixel.ofPacked (fieldA cw)) (fieldF cw))
  | 0x14 => .ok (.add (Pixel.ofPacked (fieldA cw)) (Pixel.ofPacked (fieldB cw)))
  | 0x15 => .ok (.mix (Pixel.ofPacked (fieldA cw)) (Pixel.ofPacked (fieldB cw)) (fieldF cw))
  | 0x20 => .ok (.setPx (fieldIdx cw) (Pixel.ofPacked (fieldA cw)))
  | 0x21 => .ok (.getPx (fieldIdx cw))
  | 0x22 => .ok (.clrPx (fieldIdx cw))
  | 0x23 => .ok .clrAll
  | 0x24 => .ok (.setAll (Pixel.ofPacked (fieldA cw)))
  | 0x25 => .ok (.scaleAll (fieldF cw))
  | 0x26 => .ok (.copyOut (fieldMask cw) (fieldF cw))
  | 0x30 => decodeRot cw
  | 0x40 => .ok .showOut
  | 0x50 => .ok .next32
  | 0x51 => .ok .reseed
  | 0x52 => .ok .harvest32
  | _ => .error (.opcode (fieldOp cw))

/-! ### The encoder -/

/-- `DIR` as a bit (R81). -/
def Dir.bit : Dir → BitVec 1
  | .up => 0#1
  | .down => 1#1

/-- A field's bits placed with their lowest at bit `lo` of the command word (R81). -/
def place {w : Nat} (v : BitVec w) (lo : Nat) : CommandWord := v.setWidth 64 <<< lo

/-- `OP` in bits 63:56 (R81). -/
def placeOp (op : Byte) : CommandWord := place op 56

/-- `A` in bits 55:32, packed (R81). -/
def placeA (p : Pixel) : CommandWord := place p.pack 32

/-- `B` in bits 31:8, packed (R81). -/
def placeB (p : Pixel) : CommandWord := place p.pack 8

/-- `F`, `CNT` or `CID` in bits 7:0 (R81). -/
def placeF (f : Byte) : CommandWord := place f 0

/-- `IDX` in bits 31:16 (R81). -/
def placeIdx (idx : BitVec 16) : CommandWord := place idx 16

/-- Format R: `OP` = 0x30 with `SCOPE` in bits 17:16, `DIR` in bit 8 and `CNT` in bits 7:0 (R81, R83). -/
def encodeRot (scope : BitVec 2) (dir : Dir) (cnt : Byte) : CommandWord :=
  placeOp 0x30 ||| place scope 16 ||| place dir.bit 8 ||| placeF cnt

/-- The command word of a command, by the formats of R83 and the opcodes of R85; unused bits are 0, as the assembler
writes them (R82). -/
def encode : Instr → CommandWord
  | .nop => placeOp 0x00
  | .pxrgb r g b => placeOp 0x10 ||| placeA ⟨r, g, b⟩
  | .pxint v => placeOp 0x11 ||| place v 32
  | .pxpal cid => placeOp 0x12 ||| placeF cid
  | .scale p f => placeOp 0x13 ||| placeA p ||| placeF f
  | .add a b => placeOp 0x14 ||| placeA a ||| placeB b
  | .mix a b f => placeOp 0x15 ||| placeA a ||| placeB b ||| placeF f
  | .setPx idx p => placeOp 0x20 ||| placeA p ||| placeIdx idx
  | .getPx idx => placeOp 0x21 ||| placeIdx idx
  | .clrPx idx => placeOp 0x22 ||| placeIdx idx
  | .clrAll => placeOp 0x23
  | .setAll p => placeOp 0x24 ||| placeA p
  | .scaleAll f => placeOp 0x25 ||| placeF f
  | .copyOut mask f => placeOp 0x26 ||| place mask 8 ||| placeF f
  | .rotInner dir cnt => encodeRot 0 dir cnt
  | .rotOuter dir cnt => encodeRot 1 dir cnt
  | .rotAll dir cnt => encodeRot 2 dir cnt
  | .showOut => placeOp 0x40
  | .next32 => placeOp 0x50
  | .reseed => placeOp 0x51
  | .harvest32 => placeOp 0x52

/-- The bits of the command word that a command's format uses (R81, R83). -/
def usedBits : Instr → CommandWord
  | .nop | .clrAll | .showOut | .next32 | .reseed | .harvest32 => 0xFF00000000000000#64
  | .getPx _ | .clrPx _ => 0xFF000000FFFF0000#64
  | .setPx _ _ => 0xFFFFFFFFFFFF0000#64
  | .pxrgb _ _ _ | .pxint _ | .setAll _ => 0xFFFFFFFF00000000#64
  | .scale _ _ => 0xFFFFFFFF000000FF#64
  | .add _ _ => 0xFFFFFFFFFFFFFF00#64
  | .mix _ _ _ => 0xFFFFFFFFFFFFFFFF#64
  | .scaleAll _ | .pxpal _ => 0xFF000000000000FF#64
  | .copyOut _ _ => 0xFF0000FFFFFFFFFF#64
  | .rotInner _ _ | .rotOuter _ _ | .rotAll _ _ => 0xFF000000000301FF#64

/-! ### The rows of the opcode map (R85) -/

/-- A row's `mask`: the opcode, and the scope for the three ROT rows (R85). -/
def rowMask : Instr → CommandWord
  | .rotInner _ _ | .rotOuter _ _ | .rotAll _ _ => 0xFF00000000030000#64
  | .nop | .pxrgb _ _ _ | .pxint _ | .pxpal _ | .scale _ _ | .add _ _ | .mix _ _ _ | .setPx _ _ | .getPx _ | .clrPx _
  | .clrAll | .setAll _ | .scaleAll _ | .copyOut _ _ | .showOut | .next32 | .reseed | .harvest32 =>
    0xFF00000000000000#64

/-- A row's `match` (R85). -/
def rowMatch : Instr → CommandWord
  | .nop => 0x0000000000000000#64
  | .pxrgb _ _ _ => 0x1000000000000000#64
  | .pxint _ => 0x1100000000000000#64
  | .pxpal _ => 0x1200000000000000#64
  | .scale _ _ => 0x1300000000000000#64
  | .add _ _ => 0x1400000000000000#64
  | .mix _ _ _ => 0x1500000000000000#64
  | .setPx _ _ => 0x2000000000000000#64
  | .getPx _ => 0x2100000000000000#64
  | .clrPx _ => 0x2200000000000000#64
  | .clrAll => 0x2300000000000000#64
  | .setAll _ => 0x2400000000000000#64
  | .scaleAll _ => 0x2500000000000000#64
  | .copyOut _ _ => 0x2600000000000000#64
  | .rotInner _ _ => 0x3000000000000000#64
  | .rotOuter _ _ => 0x3000000000010000#64
  | .rotAll _ _ => 0x3000000000020000#64
  | .showOut => 0x4000000000000000#64
  | .next32 => 0x5000000000000000#64
  | .reseed => 0x5100000000000000#64
  | .harvest32 => 0x5200000000000000#64

/-- The 19 opcodes R85 assigns. -/
def assignedOpcodes : List Byte :=
  [0x00, 0x10, 0x11, 0x12, 0x13, 0x14, 0x15, 0x20, 0x21, 0x22, 0x23, 0x24, 0x25, 0x26, 0x30, 0x40, 0x50, 0x51, 0x52]

/-- The host's name for decoding a table row's word: a command word is one 64-bit word taken whole by the port (R80);
bits above the row's are 0. -/
def decodeTableWord (nbits w : Nat) : Option Instr :=
  match decode (BitVec.ofNat 64 (w % 2 ^ nbits)) with
  | .ok i => some i
  | .error _ => none

end Sys2Proof
end

