-- ==== Sys2Proof/Config.lean ====
section
/-!
DEFINITION. What one instance of the hardware fixes (spec/00_scope.md R8, R9) and the free values: what
the spec leaves open. A free value is an `opaque` constant without a body, so no proof can see a value of it.
-/

namespace Sys2Proof

/-- `LEAVES` (R8). -/
def Config.leaves : Nat := 6

/-- `LEAF_LEN` (R8). -/
def Config.leafLen : Nat := 5

/-- The lane recurrences `LANE_STEP[0..3]` (R9, R190): the default of R191, or any other four total functions
on 32-bit words, which the model leaves uninterpreted (`Config.otherLaneStep`). Log entry 6. -/
inductive LaneRecurrence where
  | lfsr113
  | other (k : Nat)
deriving DecidableEq, Repr

/-- Durations of the bit waveform in timing ticks (R9, R172, R177). -/
structure Timing where
  t0h : Nat
  t1h : Nat
  tbit : Nat
  treset : Nat
deriving DecidableEq, Repr

/-- `0 < T0H < T1H < TBIT` and `TRESET > 0` (R9). -/
abbrev Timing.Legal (t : Timing) : Prop :=
  0 < t.t0h ∧ t.t0h < t.t1h ∧ t.t1h < t.tbit ∧ 0 < t.treset

/-- The parameters of one instance of the hardware (R8, R9), "each a constant of one instance of the hardware
and an argument of the model". `PALETTE` is `Config.palette`. Log entry 3. -/
structure Instance where
  /-- `N`, the number of pixels of each store. -/
  n : Nat
  innerLo : Nat
  innerCnt : Nat
  outerLo : Nat
  outerCnt : Nat
  seedDefault : Word
  harvestRepeats : Nat
  mixExactEnds : Bool
  laneRec : LaneRecurrence
  timing : Timing
deriving DecidableEq, Repr

/-- The legal instances: `LEAVES * LEAF_LEN <= N <= 32` (R8); rings of at least one position inside a leaf
(DEDUCED, log entry 19); `HARVEST_REPEATS` at least 1 and the durations ordered (R9). -/
abbrev Instance.Legal (p : Instance) : Prop :=
  Config.leaves * Config.leafLen ≤ p.n ∧ p.n ≤ 32 ∧
  0 < p.innerCnt ∧ p.innerLo + p.innerCnt ≤ Config.leafLen ∧
  0 < p.outerCnt ∧ p.outerLo + p.outerCnt ≤ Config.leafLen ∧
  0 < p.harvestRepeats ∧ p.timing.Legal

/-! ### Free values: open parameters (log entry 5) -/

/-- `PALETTE`, "a total function from an 8-bit colour id to a pixel; value OPEN" (R9, R113). -/
opaque Config.palette : Byte → Pixel

/-- `HARVEST_REPEATS` less one; R9 gives the parameter no value but "at least 1". -/
opaque Config.harvestRepeatsLessOne : Nat

/-- `T0H` less one (R9: positive, no value). -/
opaque Config.t0hLessOne : Nat

/-- `T1H - T0H` less one (R9: `T0H < T1H`). -/
opaque Config.t1hGapLessOne : Nat

/-- `TBIT - T1H` less one (R9: `T1H < TBIT`). -/
opaque Config.tbitGapLessOne : Nat

/-- `TRESET` less one (R9: positive). -/
opaque Config.tresetLessOne : Nat

/-- Lane recurrences other than the default: any four total functions for each name (R9, R190; log entry 6). -/
opaque Config.otherLaneStep : Nat → Fin 4 → Word → Word

/-! ### Free values: content at reset and inputs -/

/-- The sample a read of the entropy port gives when the run's sample stream is used up: "any value in
0..4095, independently each time" (R34). Applied to the number of samples drawn before. Log entry 7. -/
opaque Config.entropySample : Nat → Sample

/-- Content of `WORK` at reset, by byte address (R39; log entry 8). -/
opaque Config.powerOnWork : Nat → Byte

/-- Content of `OUT` at reset, by byte address (R39; log entry 8). -/
opaque Config.powerOnOut : Nat → Byte

/-- What a read of a byte address outside a store would give; no command makes one (R55, R57; log entry 9). -/
opaque Config.absentByte : Nat → Byte

/-- The host's interrupt enable at reset (R39; log entry 10). -/
opaque Config.resetIe : Bool

/-! Dead scratch registers at reset (R39; log entry 11). -/

opaque Config.resetIeSaved : Bool
opaque Config.resetTxPix : BitVec 5
opaque Config.resetTxByte : BitVec 2
opaque Config.resetTxBit : BitVec 3
opaque Config.resetRotLeft : Byte
opaque Config.resetRotJ : BitVec 5
opaque Config.resetRotSaved : Pixel

/-! ### The instance the machine is reset with -/

/-- Durations with any values the constraints of R9 allow. -/
def Config.openTiming : Timing where
  t0h := Config.t0hLessOne + 1
  t1h := Config.t0hLessOne + 1 + (Config.t1hGapLessOne + 1)
  tbit := Config.t0hLessOne + 1 + (Config.t1hGapLessOne + 1) + (Config.tbitGapLessOne + 1)
  treset := Config.tresetLessOne + 1

/-- The instance with every default of R8 and R9: `N` = 30, `INNER_LO` = 0, `INNER_CNT` = 1, `OUTER_LO` = 1,
`OUTER_CNT` = 3, `SEED_DEFAULT` = 12345, `MIX_EXACT_ENDS` = false, the lane recurrences of R191; the parameters
without a default are free values. Log entries 4 and 5. -/
def Config.standard : Instance where
  n := 30
  innerLo := 0
  innerCnt := 1
  outerLo := 1
  outerCnt := 3
  seedDefault := 12345
  harvestRepeats := Config.harvestRepeatsLessOne + 1
  mixExactEnds := false
  laneRec := .lfsr113
  timing := Config.openTiming

end Sys2Proof
end

