-- ==== Sys2Proof/Machine/State.lean ====
section
/-!
DEFINITION. The machine record of PXE (spec/10_state.md R20 to R40), its reset value, and the closed types of the ways a
step can stop.
-/

namespace Sys2Proof.Machine

/-- Why a step stops with a fault: never. "PXE raises no synchronous exception. No command can fault, trap, abort, hang
or be cancelled", "The set of exception causes is empty" (R210), so this type has no constructor. -/
inductive Fault where
deriving DecidableEq, Repr

/-- Why a step refuses. -/
inductive Refusal where
  /-- Raised by an arm of `exec` whose instruction has no meaning yet; no arm of this model raises it. Safe. -/
  | notModelled (mnemonic : String)
deriving DecidableEq, Repr

/-- One pixel store as bytes: (address, byte) cells, every address `0 .. 3N-1` listed once and rising (R50, R52).
An address that is not listed does not exist. Log entry 9. -/
abbrev Memory := List Host.Cell

/-- The canonical form of a store of `n` pixels: exactly the addresses `0 .. 3n-1`, rising (R52). -/
abbrev Memory.wf (n : Nat) (m : Memory) : Prop := m.map Prod.fst = List.range (3 * n)

/-- The two address spaces (R50). -/
inductive Space where
  | work
  | out
deriving DecidableEq, Repr

/-- One frame: bit symbols in emission order (R16, R25). -/
abbrev Frame := List Bool

/-- The register file `z[0..3]` (R20). -/
structure Lanes where
  z0 : Word
  z1 : Word
  z2 : Word
  z3 : Word
deriving DecidableEq, Repr

/-- What the host can do to PXE between commands (R223): present a command word (R80) or set `ie` (R31). Log entry 1. -/
inductive HostMove where
  | command (cw : CommandWord)
  | setIe (v : Bool)
deriving DecidableEq, Repr

/-- The whole state (R40). The last four fields are the model's own (log entries 1, 3, 7). -/
structure State where
  /-- `z[0..3]` (R20) -/
  lanes : Lanes
  /-- `acc` (R21) -/
  acc : Word
  /-- `WORK` (R22) -/
  work : Memory
  /-- `OUT` (R23) -/
  out : Memory
  /-- `pin` (R24) -/
  pin : Bool
  /-- `tx_log` (R25) -/
  txLog : List Frame
  /-- `seed_ok` (R29) -/
  seedOk : Bool
  /-- `txact` (R30) -/
  txact : Bool
  /-- `ie` (R31) -/
  ie : Bool
  /-- `ie_saved` (R32) -/
  ieSaved : Bool
  /-- `tx_pix` (R27) -/
  txPix : BitVec 5
  /-- `tx_byte` (R27) -/
  txByte : BitVec 2
  /-- `tx_bit` (R27) -/
  txBit : BitVec 3
  /-- `rot_left` (R28) -/
  rotLeft : Byte
  /-- `rot_j` (R28) -/
  rotJ : BitVec 5
  /-- `rot_saved` (R28) -/
  rotSaved : Pixel
  /-- `resp` (R33) -/
  resp : Word
  /-- the parameters of the instance (R8, R9); constant -/
  inst : Instance
  /-- host moves not yet taken, oldest first (R80, R223) -/
  port : List HostMove
  /-- entropy samples to come, oldest first (R34) -/
  entropy : List Sample
  /-- samples drawn so far (R195); indexes the free samples once `entropy` is used up -/
  samplesRead : Nat
deriving DecidableEq, Repr

/-- The outcomes of a step of this machine. -/
abbrev Result := Host.Outcome State Fault Refusal

/-- The cells of a store of `n` pixels whose byte at address `a` is `content a`. -/
def Memory.ofBytes (n : Nat) (content : Nat → Byte) : Memory :=
  (List.range (3 * n)).map fun a => (a, content a)

/-- The machine right after reset (R37 to R39), for any instance. The stores, `ie` and the dead scratch registers hold
free values (log entries 8, 10, 11); the port and the sample stream are empty (log entries 2, 7). -/
def State.resetOf (p : Instance) : State where
  lanes := ⟨p.seedDefault, p.seedDefault, p.seedDefault, p.seedDefault⟩
  acc := 0
  work := Memory.ofBytes p.n Config.powerOnWork
  out := Memory.ofBytes p.n Config.powerOnOut
  pin := false
  txLog := []
  seedOk := true
  txact := false
  ie := Config.resetIe
  ieSaved := Config.resetIeSaved
  txPix := Config.resetTxPix
  txByte := Config.resetTxByte
  txBit := Config.resetTxBit
  rotLeft := Config.resetRotLeft
  rotJ := Config.resetRotJ
  rotSaved := Config.resetRotSaved
  resp := 0
  inst := p
  port := []
  entropy := []
  samplesRead := 0

/-- The machine right after reset, with the parameters at the spec's defaults (log entry 4). -/
def State.reset : State := State.resetOf Config.standard

end Sys2Proof.Machine
end

