-- ==== Sys2Proof/Machine/Ops.lean ====
section
/-!
DEFINITION. The named operations over the stores, the response word, the lanes, the entropy port and the command port
(spec/00_scope.md R12, R13; spec/20_memory.md R50 to R59). Taking an exception and returning from one have no operation
here: PXE has neither (spec/60_exceptions.md R210, R217, R218). Its one save and restore, the critical section of SHOW,
stands in Machine/Flags.lean.
-/

namespace Sys2Proof.Machine

/-! ### Bytes of a store -/

/-- The byte at an address, `none` where the address does not exist. -/
def Memory.read? : Memory → Nat → Option Byte
  | [], _ => none
  | c :: rest, a => if c.1 = a then some c.2 else Memory.read? rest a

/-- One byte of a store (R12). An address outside the store gives a free value; no command reads one (R55, R57). -/
def Memory.byteAt (m : Memory) (a : Nat) : Byte := (Memory.read? m a).getD (Config.absentByte a)

/-- One byte written. No address is added or removed. -/
def Memory.writeByte (m : Memory) (a : Nat) (v : Byte) : Memory :=
  m.map fun c => if c.1 = a then (c.1, v) else c

/-- `MemRead(space, addr, n)`: `n` bytes, the one at `addr` first (R12, R54). -/
def Memory.readBytes (m : Memory) (a : Nat) : Nat → List Byte
  | 0 => []
  | n + 1 => Memory.byteAt m a :: Memory.readBytes m (a + 1) n

/-- `MemWrite(space, addr, n, v)`: the bytes of `v`, the first at `addr` (R12, R54). -/
def Memory.writeBytes (m : Memory) (a : Nat) : List Byte → Memory
  | [] => m
  | v :: vs => Memory.writeBytes (Memory.writeByte m a v) (a + 1) vs

/-! ### Pixels of a store (R51, R52) -/

/-- The byte address of pixel `i` (R52). -/
def pixelAddr (i : Nat) : Nat := 3 * i

/-- The storage view: green, red, blue (R51, R52). -/
def storageBytes (p : Pixel) : List Byte := [p.g, p.r, p.b]

/-- Pixel `i` of a store in the logical view: bytes `3i`, `3i+1`, `3i+2` hold green, red, blue (R52). -/
def Memory.pixel (m : Memory) (i : Nat) : Pixel where
  r := Memory.byteAt m (pixelAddr i + 1)
  g := Memory.byteAt m (pixelAddr i)
  b := Memory.byteAt m (pixelAddr i + 2)

/-- Pixel `i` of a store written whole (R57). -/
def Memory.setPixel (m : Memory) (i : Nat) (p : Pixel) : Memory :=
  Memory.writeBytes m (pixelAddr i) (storageBytes p)

/-- `for i in 0..n-1: M[i] <- value(M, i)`: the loop of the bulk commands (R134 to R137). -/
def Memory.forPixels (n : Nat) (value : Memory → Nat → Pixel) (m : Memory) : Memory :=
  (List.range n).foldl (fun m i => Memory.setPixel m i (value m i)) m

/-- A store by its name (R12, R50). -/
def State.mem (s : State) : Space → Memory
  | .work => s.work
  | .out => s.out

/-! ### Response word -/

/-- `resp <- v` (R13, R33). -/
def State.respond (s : State) (v : Word) : State := { s with resp := v }

/-- A pixel result: `zext_32(r ++ g ++ b)` (R33, R110). -/
def pixelWord (p : Pixel) : Word := (Pixel.pack p).setWidth 32

/-! ### Lanes (R12, R20) -/

/-- Read `z[k]`. -/
def Lanes.get (z : Lanes) : Fin 4 → Word
  | 0 => z.z0
  | 1 => z.z1
  | 2 => z.z2
  | 3 => z.z3

/-- Write `z[k]`. -/
def Lanes.put (z : Lanes) (k : Fin 4) (v : Word) : Lanes :=
  match k with
  | 0 => { z with z0 := v }
  | 1 => { z with z1 := v }
  | 2 => { z with z2 := v }
  | 3 => { z with z3 := v }

/-- `z[0] ^ z[1] ^ z[2] ^ z[3]` (R192, R197). -/
def Lanes.xor (z : Lanes) : Word := z.z0 ^^^ z.z1 ^^^ z.z2 ^^^ z.z3

/-- One value in all four lanes (R37, R198). -/
def Lanes.all (v : Word) : Lanes := ⟨v, v, v, v⟩

/-! ### The entropy port (R13, R34) -/

/-- The sample the `k`-th coming read of the entropy port gives (`k` = 0 is the next read): from the sample stream while
it lasts, then free values (log entry 7). -/
def State.sampleAt (s : State) (k : Nat) : Sample :=
  s.entropy.getD k (Config.entropySample (s.samplesRead + k))

/-- `EntropySample()`: the value of one fresh read (R13, R34). -/
def State.sample (s : State) : Sample := s.sampleAt 0

/-- The state after one read of the entropy port: one sample used. Nothing the spec calls PXE's state changes (R34). -/
def State.afterSample (s : State) : State :=
  { s with entropy := s.entropy.tail, samplesRead := s.samplesRead + 1 }

/-! ### The command port (R80, R223) -/

/-- The host presents a command word that PXE takes next. -/
def State.present (s : State) (cw : CommandWord) : State := { s with port := .command cw :: s.port }

/-- The next host move, taken from the port. -/
def State.takeMove (s : State) : Option (HostMove × State) :=
  match s.port with
  | [] => none
  | m :: rest => some (m, { s with port := rest })

/-- No host move is there: PXE is idle and nothing changes (R242). -/
def idle (s : State) : Result := .next s

/-- The host sets `ie` between commands (R31, R223). -/
def hostSetIe (v : Bool) (s : State) : Result := .next { s with ie := v }

/-- A reserved command word: "no state changes, `resp <- 0`, no fault" (R86, R159), whatever made it reserved. -/
def execReserved (_ : Reserved) (s : State) : Result := .next (s.respond 0)

end Sys2Proof.Machine
end

