-- ==== Sys2Proof/Machine/Flags.lean ====
section
/-!
DEFINITION. Flags: PXE has no condition codes (spec/10_state.md R30). Its flags are `seed_ok`, written by RESEED from the
degeneracy test (spec/44_random.md R197, R198), and `txact`, with the host's `ie`, inside SHOW's critical section
(spec/43_serial_driver.md R171, R175).
-/

namespace Sys2Proof.Machine

/-- A lane state is degenerate when its exclusive-or is 0 (R197). -/
def Lanes.degenerate (z : Lanes) : Bool := Lanes.xor z == 0

/-- `seed_ok <- ok` and `resp <- zext_32(ok)` (R198). -/
def State.reportSeed (s : State) (ok : Bool) : State :=
  { s with seedOk := ok, resp := (BitVec.ofBool ok).setWidth 32 }

/-- Enter the critical section: `ie_saved <- ie ; ie <- 0 ; txact <- 1` (R171, R175). -/
def State.enterCritical (s : State) : State := { s with ieSaved := s.ie, ie := false, txact := true }

/-- Leave it: `pin <- 0 ; txact <- 0 ; ie <- ie_saved` (R171, R175). -/
def State.leaveCritical (s : State) : State := { s with pin := false, txact := false, ie := s.ieSaved }

end Sys2Proof.Machine
end

