-- ==== Sys2Proof/Machine/Operands.lean ====
section
/-!
DEFINITION. Operand forms: the effective index (spec/20_memory.md R55), the mask bit (spec/30_encoding.md R84), and the
index mapper of a rotation scope (spec/42_rotate.md R150 to R153).
-/

namespace Sys2Proof.Machine

/-- `ea = IDX mod N` (R55). -/
def effectiveIndex (p : Instance) (idx : BitVec 16) : Nat := idx.toNat % p.n

/-- Bit `i` of a mask: the lowest bit enables pixel 0 (R84). -/
def maskBit (mask : Word) (i : Nat) : Bool := mask.getLsbD i

/-- `maxl(s)`, the length of the derived sequence (R151, R152, R153). -/
def maxl (p : Instance) : Scope → Nat
  | .inner => Config.leaves * p.innerCnt
  | .outer => Config.leaves * p.outerCnt
  | .all => p.n

/-- A ring's map: position `j` read as (leaf, place) and placed in its leaf (R151, R152). -/
def ringIndex (lo cnt j : Nat) : Nat := Config.leafLen * (j / cnt) + lo + j % cnt

/-- `idx_xform(s, j)` (R151, R152, R153). -/
def idxXform (p : Instance) : Scope → Nat → Nat
  | .inner, j => ringIndex p.innerLo p.innerCnt j
  | .outer, j => ringIndex p.outerLo p.outerCnt j
  | .all, j => j

/-- The derived sequence `q(s)` (R150). -/
def derivedSeq (p : Instance) (sc : Scope) : List Nat := (List.range (maxl p sc)).map (idxXform p sc)

end Sys2Proof.Machine
end

