-- ==== Sys2Proof/Machine/PixelAlu.lean ====
section
/-!
DEFINITION. Pixel arithmetic: PXRGB, PXINT, PXPAL, SCALE, ADD, MIX (spec/40_pixel_alu.md R110 to R119). Each computes on
unbounded non-negative integers (R11) and narrows to 8 bits at the end (R117).
-/

namespace Sys2Proof.Machine

/-- `scale_ch(c, f) = (c * f) >> 8` (R114). -/
def scaleCh (c f : Byte) : Byte := BitVec.ofNat 8 ((c.toNat * f.toNat) >>> 8)

/-- `scale_px(p, f)` (R114). -/
def scalePx (p : Pixel) (f : Byte) : Pixel := ⟨scaleCh p.r f, scaleCh p.g f, scaleCh p.b f⟩

/-- `add_ch(x, y) = min(255, x + y)` (R115). -/
def addCh (x y : Byte) : Byte := BitVec.ofNat 8 (min 255 (x.toNat + y.toNat))

/-- `add_px(a, b)` (R115). -/
def addPx (a b : Pixel) : Pixel := ⟨addCh a.r b.r, addCh a.g b.g, addCh a.b b.b⟩

/-- `mix_ch(x, y, f) = (x * (255 - f) + y * f) >> 8` (R116). -/
def mixCh (x y f : Byte) : Byte := BitVec.ofNat 8 ((x.toNat * (255 - f.toNat) + y.toNat * f.toNat) >>> 8)

/-- `mix_px(a, b, f)`, with `MIX_EXACT_ENDS` (R116, R119). -/
def mixPx (exactEnds : Bool) (a b : Pixel) (f : Byte) : Pixel :=
  if exactEnds && f == 0 then a
  else if exactEnds && f == 255 then b
  else ⟨mixCh a.r b.r f, mixCh a.g b.g f, mixCh a.b b.b f⟩

/-- PXRGB r, g, b (R111). -/
def execPxrgb (r g b : Byte) (s : State) : Result := .next (s.respond (pixelWord ⟨r, g, b⟩))

/-- PXINT #RRGGBB (R112). -/
def execPxint (v : BitVec 24) (s : State) : Result := .next (s.respond (pixelWord (Pixel.ofPacked v)))

/-- PXPAL cid (R113). -/
def execPxpal (cid : Byte) (s : State) : Result := .next (s.respond (pixelWord (Config.palette cid)))

/-- SCALE #p, f (R114). -/
def execScale (p : Pixel) (f : Byte) (s : State) : Result := .next (s.respond (pixelWord (scalePx p f)))

/-- ADD #a, #b (R115). -/
def execAdd (a b : Pixel) (s : State) : Result := .next (s.respond (pixelWord (addPx a b)))

/-- MIX #a, #b, f (R116). -/
def execMix (a b : Pixel) (f : Byte) (s : State) : Result :=
  .next (s.respond (pixelWord (mixPx s.inst.mixExactEnds a b f)))

end Sys2Proof.Machine
end

