-- ==== Sys2Proof/Machine/PixelStore.lean ====
section
/-!
DEFINITION. Pixel stores: NOP, SET, GET, CLR, CLRALL, SETALL, SCALEALL, COPYOUT (spec/41_pixel_buffer.md R130 to R139).
-/

namespace Sys2Proof.Machine

/-- `WORK[i] <- p` (R12). -/
def State.setWork (s : State) (i : Nat) (p : Pixel) : State := { s with work := Memory.setPixel s.work i p }

/-- `for i in 0..N-1: WORK[i] <- value(WORK, i)` (R134 to R136). -/
def State.forWork (s : State) (value : Memory → Nat → Pixel) : State :=
  { s with work := Memory.forPixels s.inst.n value s.work }

/-- The pixel COPYOUT publishes at index `i`: the scaled working pixel where the mask bit is 1, else black (R137). -/
def publishedPixel (work : Memory) (mask : Word) (f : Byte) (i : Nat) : Pixel :=
  if maskBit mask i then scalePx (Memory.pixel work i) f else Pixel.black

/-- `for i in 0..N-1: OUT[i] <- …` (R137). -/
def State.publish (s : State) (mask : Word) (f : Byte) : State :=
  { s with out := Memory.forPixels s.inst.n (fun _ i => publishedPixel s.work mask f i) s.out }

/-- NOP (R130). -/
def execNop (s : State) : Result := .next (s.respond 0)

/-- SET idx, #p (R131). -/
def execSetPx (idx : BitVec 16) (p : Pixel) (s : State) : Result :=
  .next ((s.setWork (effectiveIndex s.inst idx) p).respond 0)

/-- GET idx (R132). -/
def execGetPx (idx : BitVec 16) (s : State) : Result :=
  .next (s.respond (pixelWord (Memory.pixel s.work (effectiveIndex s.inst idx))))

/-- CLR idx (R133). -/
def execClrPx (idx : BitVec 16) (s : State) : Result :=
  .next ((s.setWork (effectiveIndex s.inst idx) Pixel.black).respond 0)

/-- CLRALL (R134). -/
def execClrAll (s : State) : Result := .next ((s.forWork fun _ _ => Pixel.black).respond 0)

/-- SETALL #p (R135). -/
def execSetAll (p : Pixel) (s : State) : Result := .next ((s.forWork fun _ _ => p).respond 0)

/-- SCALEALL f: each pixel from its own old value (R136). -/
def execScaleAll (f : Byte) (s : State) : Result :=
  .next ((s.forWork fun m i => scalePx (Memory.pixel m i) f).respond 0)

/-- COPYOUT mask, f (R137). -/
def execCopyOut (mask : Word) (f : Byte) (s : State) : Result := .next ((s.publish mask f).respond 0)

end Sys2Proof.Machine
end

