-- ==== Sys2Proof/Machine/Random.lean ====
section
/-!
DEFINITION. The random source: NEXT32, HARVEST32, RESEED (spec/44_random.md R190 to R201).
-/

namespace Sys2Proof.Machine

/-! ### The generator -/

/-- The default lane recurrences, the four LFSR113 component steps (R191). -/
def lfsr113Step (k : Fin 4) (z : Word) : Word :=
  match k with
  | 0 => ((z &&& 0xFFFFFFFE) <<< 18) ^^^ (((z <<< 6) ^^^ z) >>> 13)
  | 1 => ((z &&& 0xFFFFFFF8) <<< 2) ^^^ (((z <<< 2) ^^^ z) >>> 27)
  | 2 => ((z &&& 0xFFFFFFF0) <<< 7) ^^^ (((z <<< 13) ^^^ z) >>> 21)
  | 3 => ((z &&& 0xFFFFFF80) <<< 13) ^^^ (((z <<< 3) ^^^ z) >>> 12)

/-- `LANE_STEP[k]` of an instance (R9, R190). -/
def laneStep (p : Instance) (k : Fin 4) (z : Word) : Word :=
  match p.laneRec with
  | .lfsr113 => lfsr113Step k z
  | .other r => Config.otherLaneStep r k z

/-- All four lanes advanced, each from its own value only (R190, R192). -/
def Lanes.advance (p : Instance) (z : Lanes) : Lanes :=
  ⟨laneStep p 0 z.z0, laneStep p 1 z.z1, laneStep p 2 z.z2, laneStep p 3 z.z3⟩

/-- NEXT32: the exclusive-or of the lanes after the advance (R192). -/
def execNext32 (s : State) : Result :=
  .next (State.respond { s with lanes := Lanes.advance s.inst s.lanes } (Lanes.xor (Lanes.advance s.inst s.lanes)))

/-! ### The entropy harvester -/

/-- `fold16(v)`: 16 bits folded to one by exclusive-or, 16 -> 8 -> 4 -> 2 -> 1 (R194). -/
def fold16 (v : BitVec 16) : Bool :=
  let v := v ^^^ (v >>> 8)
  let v := v ^^^ (v >>> 4)
  let v := v ^^^ (v >>> 2)
  let v := v ^^^ (v >>> 1)
  v.getLsbD 0

/-- The bit one sample gives: the sample zero-extended to 16 bits and folded (R194). -/
def sampleBit (v : Sample) : Bool := fold16 (v.setWidth 16)

/-- `harvest_bit()`, from the bit so far: `reps` more samples, their bits exclusive-ored together (R194). -/
def harvestBit : Nat → Bool → State → Bool × State
  | 0, b, s => (b, s)
  | reps + 1, b, s => harvestBit reps (b ^^ sampleBit s.sample) s.afterSample

/-- `for n in 0..31: w <- (w << 1) | harvest_bit()`, from the word so far: `count` more bits (R196). -/
def harvestWord : Nat → Word → State → Word × State
  | 0, w, s => (w, s)
  | count + 1, w, s =>
    harvestWord count ((w <<< 1) ||| (BitVec.ofBool (harvestBit s.inst.harvestRepeats false s).1).setWidth 32)
      (harvestBit s.inst.harvestRepeats false s).2

/-- One harvest without its response: `acc <- acc ^ w` (R196, R198). -/
def harvest (s : State) : State :=
  { (harvestWord 32 0 s).2 with acc := s.acc ^^^ (harvestWord 32 0 s).1 }

/-- HARVEST32: the accumulator after the update is the result (R196). -/
def execHarvest32 (s : State) : Result := .next ((harvest s).respond (harvest s).acc)

/-! ### Reseeding -/

/-- Harvest, then `z[k] <- acc` (R198). -/
def harvestIntoLane (s : State) (k : Fin 4) : State :=
  { harvest s with lanes := Lanes.put (harvest s).lanes k (harvest s).acc }

/-- Four harvests into the four lanes, lane 0 first (R198). -/
def loadLanes (s : State) : State := [0, 1, 2, 3].foldl harvestIntoLane s

/-- The lanes RESEED keeps: the loaded ones, or `SEED_DEFAULT` in all four if they are degenerate (R197, R198). -/
def seededLanes (p : Instance) (z : Lanes) : Lanes :=
  if Lanes.degenerate z then Lanes.all p.seedDefault else z

/-- RESEED (R198). -/
def execReseed (s : State) : Result :=
  .next (State.reportSeed { loadLanes s with lanes := seededLanes s.inst (loadLanes s).lanes }
    (!Lanes.degenerate (loadLanes s).lanes))

end Sys2Proof.Machine
end

