-- ==== Sys2Proof/Machine/Rotate.lean ====
section
/-!
DEFINITION. The rotation transform: ROT.INNER, ROT.OUTER, ROT.ALL (spec/42_rotate.md R154 to R160). The loops are the
spec's own, hidden registers included; the net effect of R155 is a statement about them.
-/

namespace Sys2Proof.Machine

/-- `k, k-1, …, 1`. -/
def countdown : Nat → List Nat
  | 0 => []
  | k + 1 => (k + 1) :: countdown k

/-- `WORK[dst] <- WORK[src]` at derived position `j` (R28, R154). -/
def State.shiftPixel (s : State) (j dst src : Nat) : State :=
  { s with rotJ := BitVec.ofNat 5 j, work := Memory.setPixel s.work dst (Memory.pixel s.work src) }

/-- `rot_saved <- WORK[i]` (R154). -/
def State.savePixel (s : State) (i : Nat) : State := { s with rotSaved := Memory.pixel s.work i }

/-- `WORK[i] <- rot_saved` (R154). -/
def State.restorePixel (s : State) (i : Nat) : State := s.setWork i s.rotSaved

/-- `step(q, L, UP)`: content moves toward higher positions (R154). -/
def rotStepUp (q : Nat → Nat) (len : Nat) (s : State) : State :=
  State.restorePixel
    ((countdown (len - 1)).foldl (fun t j => State.shiftPixel t j (q j) (q (j - 1))) (s.savePixel (q (len - 1))))
    (q 0)

/-- `step(q, L, DOWN)`: content moves toward lower positions (R154). -/
def rotStepDown (q : Nat → Nat) (len : Nat) (s : State) : State :=
  State.restorePixel
    ((List.range (len - 1)).foldl (fun t j => State.shiftPixel t j (q j) (q (j + 1))) (s.savePixel (q 0)))
    (q (len - 1))

/-- One single-step rotation (R154). -/
def rotStep (dir : Dir) (q : Nat → Nat) (len : Nat) (s : State) : State :=
  match dir with
  | .up => rotStepUp q len s
  | .down => rotStepDown q len s

/-- `rot_left` counts down: `while rot_left > 0: step; rot_left <- rot_left - 1` (R155). -/
def rotLoop (dir : Dir) (q : Nat → Nat) (len : Nat) : Nat → State → State
  | 0, s => { s with rotLeft := 0 }
  | c + 1, s => rotLoop dir q len c (rotStep dir q len { s with rotLeft := BitVec.ofNat 8 (c + 1) })

/-- The whole rotation of one scope (R155). The sequence is derived anew at each call (R250). -/
def rotate (sc : Scope) (dir : Dir) (cnt : Byte) (s : State) : State :=
  (rotLoop dir (idxXform s.inst sc) (maxl s.inst sc) cnt.toNat s).respond 0

/-- ROT.INNER dir, cnt (R156). -/
def execRotInner (dir : Dir) (cnt : Byte) (s : State) : Result := .next (rotate .inner dir cnt s)

/-- ROT.OUTER dir, cnt (R157). -/
def execRotOuter (dir : Dir) (cnt : Byte) (s : State) : Result := .next (rotate .outer dir cnt s)

/-- ROT.ALL dir, cnt (R158). -/
def execRotAll (dir : Dir) (cnt : Byte) (s : State) : Result := .next (rotate .all dir cnt s)

end Sys2Proof.Machine
end

