-- ==== Sys2Proof/Machine/Serial.lean ====
section
/-!
DEFINITION. The serial protocol driver: SHOW, and the waveform of a frame (spec/43_serial_driver.md R170 to R181).
-/

namespace Sys2Proof.Machine

/-- The serializer's positions `(tx_pix, tx_byte, tx_bit)` in emission order: pixel-ascending, three bytes a pixel, most
significant bit first (R27, R171). -/
def txSchedule (n : Nat) : List (Nat × Nat × Nat) :=
  (List.range n).flatMap fun pix =>
    [0, 1, 2].flatMap fun byte =>
      [7, 6, 5, 4, 3, 2, 1, 0].map fun bit => (pix, byte, bit)

/-- The bit of `OUT` at one position: `byte[tx_bit]` of `MemRead(OUT, 3*tx_pix + tx_byte, 1)` (R171). -/
def symbolAt (s : State) (pos : Nat × Nat × Nat) : Bool :=
  (Memory.byteAt s.out (pixelAddr pos.1 + pos.2.1)).getLsbD pos.2.2

/-- One turn of SHOW's loop: the position registers stand at `pos`, the bit there is emitted and appended to the frame,
and the pin is low again at the end of the bit period (R171, R172). -/
def emitAt (x : State × Frame) (pos : Nat × Nat × Nat) : State × Frame :=
  ({ x.1 with
      txPix := BitVec.ofNat 5 pos.1
      txByte := BitVec.ofNat 2 pos.2.1
      txBit := BitVec.ofNat 3 pos.2.2
      pin := false },
   x.2 ++ [symbolAt x.1 pos])

/-- The machine and the frame so far after `k` symbols of a SHOW that starts in `s` (R171). -/
def showProgress (k : Nat) (s : State) : State × Frame :=
  ((txSchedule s.inst.n).take k).foldl emitAt (s.enterCritical, [])

/-- The machine and the whole frame at the end of SHOW's loop: all `N` pixels, never a prefix (R171). -/
def showLoop (s : State) : State × Frame := (txSchedule s.inst.n).foldl emitAt (s.enterCritical, [])

/-- `tx_log <- tx_log ++ [frame]` (R171). -/
def State.logFrame (s : State) (f : Frame) : State := { s with txLog := s.txLog ++ [f] }

/-- SHOW (R171). -/
def execShowOut (s : State) : Result :=
  .next (((State.logFrame (showLoop s).1 (showLoop s).2).leaveCritical).respond 0)

/-! ### Waveform (R172, R174), derived from a frame: one pin level for each timing tick -/

/-- `Emit(bit)`: high for `T1H` or `T0H` timing ticks, low for the rest of the period `TBIT` (R172). -/
def bitWave (t : Timing) (bit : Bool) : List Bool :=
  List.replicate (if bit then t.t1h else t.t0h) true ++
  List.replicate (t.tbit - (if bit then t.t1h else t.t0h)) false

/-- A frame on the pin: "The next period follows at once" (R172, R174). -/
def frameWave (t : Timing) (f : Frame) : List Bool := f.flatMap (bitWave t)

/-- Frames on the pin, each followed by a low level of the given length in timing ticks (R177, R249). -/
def wireWave (t : Timing) : List (Frame × Nat) → List Bool
  | [] => []
  | (f, gap) :: rest => frameWave t f ++ List.replicate gap false ++ wireWave t rest

end Sys2Proof.Machine
end

