-- ==== Sys2Proof/Machine/Dispatch.lean ====
section
/-!
DEFINITION. The meaning of every command: one arm for each constructor of Instr.
-/

namespace Sys2Proof.Machine

def exec (i : Instr) (s : State) : Host.Outcome State Fault Refusal :=
  match i with
  | .nop => Sys2Proof.Machine.execNop s
  | .pxrgb r g b => Sys2Proof.Machine.execPxrgb r g b s
  | .pxint v => Sys2Proof.Machine.execPxint v s
  | .pxpal cid => Sys2Proof.Machine.execPxpal cid s
  | .scale p f => Sys2Proof.Machine.execScale p f s
  | .add a b => Sys2Proof.Machine.execAdd a b s
  | .mix a b f => Sys2Proof.Machine.execMix a b f s
  | .setPx idx p => Sys2Proof.Machine.execSetPx idx p s
  | .getPx idx => Sys2Proof.Machine.execGetPx idx s
  | .clrPx idx => Sys2Proof.Machine.execClrPx idx s
  | .clrAll => Sys2Proof.Machine.execClrAll s
  | .setAll p => Sys2Proof.Machine.execSetAll p s
  | .scaleAll f => Sys2Proof.Machine.execScaleAll f s
  | .copyOut mask f => Sys2Proof.Machine.execCopyOut mask f s
  | .rotInner dir cnt => Sys2Proof.Machine.execRotInner dir cnt s
  | .rotOuter dir cnt => Sys2Proof.Machine.execRotOuter dir cnt s
  | .rotAll dir cnt => Sys2Proof.Machine.execRotAll dir cnt s
  | .showOut => Sys2Proof.Machine.execShowOut s
  | .next32 => Sys2Proof.Machine.execNext32 s
  | .reseed => Sys2Proof.Machine.execReseed s
  | .harvest32 => Sys2Proof.Machine.execHarvest32 s

end Sys2Proof.Machine
end

