-- ==== Sys2Proof/Machine/Step.lean ====
section
/-!
DEFINITION. One step of PXE: the next host move is taken; a command word is decoded and runs to completion
(spec/30_encoding.md R80, R86; spec/60_exceptions.md R223).
-/

namespace Sys2Proof.Machine

/-- A command word taken from the port (R80): its command runs; a reserved word executes as NOP (R86). -/
def runCommand (cw : CommandWord) (s : State) : Result :=
  match decode cw with
  | .ok i => exec i s
  | .error e => execReserved e s

/-- One step (log entry 1). -/
def step (s : State) : Host.Outcome State Fault Refusal :=
  match s.takeMove with
  | none => idle s
  | some (.setIe v, s') => hostSetIe v s'
  | some (.command cw, s') => runCommand cw s'

/-- The host presents the command word `w` (of `nbits` bits, the bits above 0) as the next one (log entry 2). -/
def State.withFetchWord (s : State) (nbits w : Nat) : State := s.present (BitVec.ofNat 64 (w % 2 ^ nbits))

end Sys2Proof.Machine
end

