-- ==== Sys2Proof/Machine/Assembler.lean ====
section
/-!
DEFINITION. The assembler: a well-formed line gives one command, a pseudo-command its expansion
(spec/30_encoding.md R88, R89). Log entry 23.
-/

namespace Sys2Proof.Machine

/-- A pixel operand `#RRGGBB` as a pixel (R88, R54). -/
def colour (v : Nat) : Pixel := Pixel.ofPacked (BitVec.ofNat 24 v)

/-- The mask with the low `n` bits set, `2^N - 1` (R89). -/
def fullMask (n : Nat) : Word := BitVec.ofNat 32 (2 ^ n - 1)

/-- The rotation command of a scope (R89). -/
def rotInstr : Scope → Dir → Byte → Instr
  | .inner => .rotInner
  | .outer => .rotOuter
  | .all => .rotAll

/-- The commands of a line, its operands taken as fields (R88); pseudo-commands expanded (R89). `n` is `N`. -/
def Source.expand (n : Nat) : Source → List Instr
  | .nop => [.nop]
  | .pxrgb r g b => [.pxrgb (BitVec.ofNat 8 r) (BitVec.ofNat 8 g) (BitVec.ofNat 8 b)]
  | .pxint v => [.pxint (BitVec.ofNat 24 v)]
  | .pxpal cid => [.pxpal (BitVec.ofNat 8 cid)]
  | .scale p f => [.scale (colour p) (BitVec.ofNat 8 f)]
  | .add a b => [.add (colour a) (colour b)]
  | .mix a b f => [.mix (colour a) (colour b) (BitVec.ofNat 8 f)]
  | .setPx idx p => [.setPx (BitVec.ofNat 16 idx) (colour p)]
  | .getPx idx => [.getPx (BitVec.ofNat 16 idx)]
  | .clrPx idx => [.clrPx (BitVec.ofNat 16 idx)]
  | .clrAll => [.clrAll]
  | .setAll p => [.setAll (colour p)]
  | .scaleAll f => [.scaleAll (BitVec.ofNat 8 f)]
  | .copyOut mask f => [.copyOut (BitVec.ofNat 32 mask) (BitVec.ofNat 8 f)]
  | .rotInner dir cnt => [.rotInner dir (BitVec.ofNat 8 cnt)]
  | .rotOuter dir cnt => [.rotOuter dir (BitVec.ofNat 8 cnt)]
  | .rotAll dir cnt => [.rotAll dir (BitVec.ofNat 8 cnt)]
  | .showOut => [.showOut]
  | .next32 => [.next32]
  | .reseed => [.reseed]
  | .harvest32 => [.harvest32]
  | .copyAll f => [.copyOut (fullMask n) (BitVec.ofNat 8 f)]
  | .blank => [.copyOut 0 0]
  | .frame mask f => [.copyOut (BitVec.ofNat 32 mask) (BitVec.ofNat 8 f), .showOut]
  | .rot scope dir cnt => [rotInstr scope dir (BitVec.ofNat 8 cnt)]

/-- The commands of a well-formed line; an ill-formed line is refused. -/
def Source.assemble (n : Nat) (l : Source) : Option (List Instr) :=
  if l.wf then some (Source.expand n l) else none

/-- The command words of a well-formed line. -/
def Source.words (n : Nat) (l : Source) : Option (List CommandWord) :=
  (Source.assemble n l).map (List.map encode)

end Sys2Proof.Machine
end

