-- ==== Sys2Proof/Machine/AsmText.lean ====
section
/-!
DEFINITION. The text of assembler lines (spec/30_encoding.md R88, R89): "one command per line, operands separated by
commas, `;` starts a comment. Numbers are decimal or `0x` hexadecimal. A pixel is `#RRGGBB`". What the rule does not say
(blanks, empty lines, the case of letters) is log entry 23.
-/

namespace Sys2Proof.Machine

/-- Characters of a program or a part of one. -/
abbrev Text := List Char

/-- One operand as it is spelled (R88). -/
inductive Operand where
  | num (v : Nat)
  | pixel (v : Nat)
  | dir (d : Dir)
  | scope (sc : Scope)
deriving DecidableEq, Repr

/-- Space or tab. -/
def isBlank (c : Char) : Bool := c == ' ' || c == '\t'

/-- Blanks at both ends removed. -/
def trimBlanks (t : Text) : Text := ((t.dropWhile isBlank).reverse.dropWhile isBlank).reverse

/-- The line up to its comment (R88). -/
def withoutComment (t : Text) : Text := t.takeWhile (· != ';')

/-- The parts between separators; one part more than there are separators. -/
def partsAt (sep : Char) : Text → List Text
  | [] => [[]]
  | c :: rest =>
    if c = sep then [] :: partsAt sep rest
    else match partsAt sep rest with
      | [] => [[c]]
      | w :: ws => (c :: w) :: ws

/-- A digit's value in a base up to 16; hexadecimal letters in either case. -/
def digitValue (base : Nat) (c : Char) : Option Nat :=
  let v :=
    if 48 ≤ c.toNat ∧ c.toNat ≤ 57 then c.toNat - 48
    else if 65 ≤ c.toNat ∧ c.toNat ≤ 70 then c.toNat - 55
    else if 97 ≤ c.toNat ∧ c.toNat ≤ 102 then c.toNat - 87
    else base
  if v < base then some v else none

/-- Digits read on from a value, the first digit the most significant. -/
def readDigits (base : Nat) : Nat → Text → Option Nat
  | n, [] => some n
  | n, c :: rest => (digitValue base c).bind fun d => readDigits base (base * n + d) rest

/-- A number of at least one digit. -/
def readNumber (base : Nat) (t : Text) : Option Nat := if t = [] then none else readDigits base 0 t

/-- A word operand: a direction or a scope (R88, R89). -/
def readWord (t : Text) : Option Operand :=
  if t = "UP".toList then some (.dir .up)
  else if t = "DOWN".toList then some (.dir .down)
  else if t = "INNER".toList then some (.scope .inner)
  else if t = "OUTER".toList then some (.scope .outer)
  else if t = "ALL".toList then some (.scope .all)
  else none

/-- One operand: `#RRGGBB`, `0x` hexadecimal, decimal, or a word (R88). -/
def readOperand (t : Text) : Option Operand :=
  match t with
  | '#' :: rest => if rest.length = 6 then (readNumber 16 rest).map .pixel else none
  | '0' :: 'x' :: rest => (readNumber 16 rest).map .num
  | _ => ((readNumber 10 t).map .num).or (readWord t)

/-- The spellings of R88 and R89, each with the line its operands make. -/
def spellings : List (String × (List Operand → Option Source)) :=
  [("NOP", fun | [] => some .nop | _ => none),
   ("PXRGB", fun | [.num r, .num g, .num b] => some (.pxrgb r g b) | _ => none),
   ("PXINT", fun | [.pixel v] => some (.pxint v) | _ => none),
   ("PXPAL", fun | [.num cid] => some (.pxpal cid) | _ => none),
   ("SCALE", fun | [.pixel p, .num f] => some (.scale p f) | _ => none),
   ("ADD", fun | [.pixel a, .pixel b] => some (.add a b) | _ => none),
   ("MIX", fun | [.pixel a, .pixel b, .num f] => some (.mix a b f) | _ => none),
   ("SET", fun | [.num idx, .pixel p] => some (.setPx idx p) | _ => none),
   ("GET", fun | [.num idx] => some (.getPx idx) | _ => none),
   ("CLR", fun | [.num idx] => some (.clrPx idx) | _ => none),
   ("CLRALL", fun | [] => some .clrAll | _ => none),
   ("SETALL", fun | [.pixel p] => some (.setAll p) | _ => none),
   ("SCALEALL", fun | [.num f] => some (.scaleAll f) | _ => none)] ++
  [("COPYOUT", fun | [.num mask, .num f] => some (.copyOut mask f) | _ => none),
   ("ROT.INNER", fun | [.dir d, .num cnt] => some (.rotInner d cnt) | _ => none),
   ("ROT.OUTER", fun | [.dir d, .num cnt] => some (.rotOuter d cnt) | _ => none),
   ("ROT.ALL", fun | [.dir d, .num cnt] => some (.rotAll d cnt) | _ => none),
   ("SHOW", fun | [] => some .showOut | _ => none),
   ("NEXT32", fun | [] => some .next32 | _ => none),
   ("RESEED", fun | [] => some .reseed | _ => none),
   ("HARVEST32", fun | [] => some .harvest32 | _ => none),
   ("COPYALL", fun | [.num f] => some (.copyAll f) | _ => none),
   ("BLANK", fun | [] => some .blank | _ => none),
   ("FRAME", fun | [.num mask, .num f] => some (.frame mask f) | _ => none),
   ("ROT", fun | [.scope sc, .dir d, .num cnt] => some (.rot sc d cnt) | _ => none)]

/-- The line of a mnemonic with its operands. -/
def readCommand (name : Text) (ops : List Operand) : Option Source :=
  (spellings.find? fun row => row.1.toList == name).bind fun row => row.2 ops

/-- The operand texts after a mnemonic. -/
def operandTexts (t : Text) : List Text := if t = [] then [] else (partsAt ',' t).map trimBlanks

/-- A line's body, no comment and no blanks at its ends: the mnemonic, blanks, the operands. -/
def readBody (t : Text) : Option Source :=
  ((operandTexts (trimBlanks (t.dropWhile fun c => !isBlank c))).mapM readOperand).bind
    (readCommand (t.takeWhile fun c => !isBlank c))

/-- One line: no command on a line that is empty but for blanks and a comment, else one. -/
def readLine (t : Text) : Option (List Source) :=
  if trimBlanks (withoutComment t) = [] then some []
  else (readBody (trimBlanks (withoutComment t))).map fun l => [l]

/-- The command words of a program text for `N` = `n`; none where a line is malformed or out of range. -/
def textWords (n : Nat) (t : Text) : Option (List CommandWord) :=
  ((partsAt '\n' t).mapM readLine).bind fun lines =>
    (lines.flatten.mapM (Source.words n)).map List.flatten

end Sys2Proof.Machine
end

