-- ==== Sys2Proof/Safety.lean ====
section
/-!
DEFINITION. What counts as a well-kept machine and a safe run, and the spec's own descriptions the statements are written
with: results as numbers, frames in closed form, the bits a harvest gathers.
-/

namespace Sys2Proof.Machine

/-- The invariant of PXE between commands: a legal instance (R8, R9), both stores whole and in canonical form (R50, R52),
no SHOW in progress and the pin low (R24, R30). -/
structure State.Inv (s : State) : Prop where
  legal : s.inst.Legal
  work : Memory.wf s.inst.n s.work
  out : Memory.wf s.inst.n s.out
  txact : s.txact = false
  pin : s.pin = false

/-- A list of commands run in order from a state (R63); the first stop ends the run. -/
def execAll : List Instr → State → Result
  | [], s => .next s
  | i :: rest, s =>
    match exec i s with
    | .next t => execAll rest t
    | .fault e => .fault e
    | .refused r => .refused r

/-- COPYOUT, the only command that moves data from `WORK` to `OUT` (R65). -/
def publishes : Instr → Bool
  | .copyOut _ _ => true
  | .nop | .pxrgb _ _ _ | .pxint _ | .pxpal _ | .scale _ _ | .add _ _ | .mix _ _ _ | .setPx _ _ | .getPx _ | .clrPx _
  | .clrAll | .setAll _ | .scaleAll _ | .rotInner _ _ | .rotOuter _ _ | .rotAll _ _ | .showOut | .next32 | .reseed
  | .harvest32 => false

/-- The commands with a result: "GET, the six pixel-arithmetic commands, NEXT32, RESEED, HARVEST32" (R33). -/
def hasResult : Instr → Bool
  | .pxrgb _ _ _ | .pxint _ | .pxpal _ | .scale _ _ | .add _ _ | .mix _ _ _ | .getPx _ | .next32 | .reseed
  | .harvest32 => true
  | .nop | .setPx _ _ | .clrPx _ | .clrAll | .setAll _ | .scaleAll _ | .copyOut _ _ | .rotInner _ _ | .rotOuter _ _
  | .rotAll _ _ | .showOut => false

/-! ### Results as numbers -/

/-- A response word whose top byte is 0 and whose lower bytes are red, green, blue, as numbers (R54, R110). -/
abbrev IsChannelWord (w : Word) (r g b : Nat) : Prop := w.toNat = r * 65536 + g * 256 + b

/-- A response word that carries a pixel (R33, R110). -/
abbrev IsPixelWord (w : Word) (p : Pixel) : Prop := IsChannelWord w p.r.toNat p.g.toNat p.b.toNat

/-- A pixel scaled, by its channels as numbers (R114). -/
abbrev IsScaled (q p : Pixel) (f : Byte) : Prop :=
  q.r.toNat = p.r.toNat * f.toNat / 256 ∧ q.g.toNat = p.g.toNat * f.toNat / 256 ∧ q.b.toNat = p.b.toNat * f.toNat / 256

/-! ### Frames in closed form (R173) -/

/-- Byte 0, 1, 2 of a pixel on the wire: green, red, blue (R173). -/
def wireByte (p : Pixel) : Nat → Byte
  | 0 => p.g
  | 1 => p.r
  | _ => p.b

/-- Symbol number `k` of a frame of the pixels `px` (R173). -/
def wireSymbol (px : Nat → Pixel) (k : Nat) : Bool := (wireByte (px (k / 24)) (k % 24 / 8)).getLsbD (7 - k % 8)

/-- The frame that carries the `n` pixels `px` (R173, R174): `24 * n` symbols, each in closed form. -/
def IsFrame (f : Frame) (n : Nat) (px : Nat → Pixel) : Prop :=
  f.length = 24 * n ∧ ∀ k, k < 24 * n → f[k]? = some (wireSymbol px k)

/-- The host's duty between frames: the low level after each frame lasts at least `TRESET` timing ticks (R249). PXE does
not check it. -/
def gapsKept (t : Timing) (frames : List (Frame × Nat)) : Prop := ∀ f ∈ frames, t.treset ≤ f.2

/-! ### The harvest by its samples (R194 to R196) -/

/-- The exclusive-or of the bits of a list. -/
def xorBits (l : List Bool) : Bool := l.foldl (fun a b => a ^^ b) false

/-- The parity of a 12-bit sample (R194). -/
def sampleParity (v : Sample) : Bool := xorBits ((List.range 12).map v.getLsbD)

/-- The `k`-th bit a harvest from `s` gathers: the parities of `HARVEST_REPEATS` samples exclusive-ored (R194, R195). -/
def gatheredBit (s : State) (k : Nat) : Bool :=
  xorBits ((List.range s.inst.harvestRepeats).map fun r => sampleParity (s.sampleAt (k * s.inst.harvestRepeats + r)))

end Sys2Proof.Machine
end

