-- ==== Sys2Proof/Certificates/Slice0/Obligations.lean ====
section
/-!
DEFINITION. The statements for the provers. Each docstring names the rule of spec/ it formalises or rests on.
-/

open Sys2Proof Sys2Proof.Machine

/-! ### Command words -/

/-- R90: the six worked encodings of the spec, decoded and encoded. -/
def Obligations.WorkedEncodingsDecodeAndEncode : Prop :=
  ∀ x ∈ ([(0x2000FF00001F0000, .setPx 31 ⟨0, 255, 0⟩),
      (0x2600003FFFFFFF80, .copyOut 0x3FFFFFFF 128),
      (0x3000000000010002, .rotOuter .up 2),
      (0x3000000000020103, .rotAll .down 3),
      (0x15FF00000000FF80, .mix ⟨255, 0, 0⟩ ⟨0, 0, 255⟩ 128),
      (0x4000000000000000, .showOut)] : List (CommandWord × Instr)),
    decode x.1 = .ok x.2 ∧ encode x.2 = x.1

/-- R81, R83, R85: no bit of any operand is dropped, for every command and every operand value. -/
def Obligations.DecodeOfEncodeIsTheCommand : Prop :=
  ∀ i : Instr, decode (encode i) = .ok i

/-- R82: bits a command's format does not use do not affect what is decoded, and the encoder writes them as zero, so a
word that decodes is the encoding of its command but for those bits; a word decodes as a command of one row for all words
with its opcode (and scope, for opcode 0x30). -/
def Obligations.UnusedBitsAreIgnored : Prop :=
  (∀ (cw cw' : CommandWord) (i : Instr),
    decode cw = .ok i → cw' &&& usedBits i = cw &&& usedBits i → decode cw' = .ok i) ∧
  (∀ i : Instr, encode i &&& ~~~ usedBits i = 0) ∧
  (∀ (cw : CommandWord) (i : Instr), decode cw = .ok i → encode i = cw &&& usedBits i) ∧
  (∀ (cw cw' : CommandWord) (i : Instr), decode cw = .ok i →
    fieldOp cw' = fieldOp cw → (fieldOp cw = 0x30 → fieldScope cw' = fieldScope cw) →
    ∃ j, decode cw' = .ok j ∧ usedBits j = usedBits i ∧ rowMatch j = rowMatch i)

/-- R85: a word lies in a row of the opcode map exactly when its masked bits are the row's match. -/
def Obligations.OpcodeMapSelectsTheRow : Prop :=
  ∀ (cw : CommandWord) (i : Instr),
    cw &&& rowMask i = rowMatch i ↔ ∃ j, decode cw = .ok j ∧ rowMatch j = rowMatch i

/-- R86: which words are reserved, how many opcodes that is, and that each executes as NOP. -/
def Obligations.ReservedWordsExecuteAsNop : Prop :=
  (∀ cw : CommandWord, (∃ e, decode cw = .error e) ↔
    (fieldOp cw ∉ assignedOpcodes ∨ (fieldOp cw = 0x30 ∧ fieldScope cw = 3))) ∧
  ((List.range 256).filter fun op => decide (BitVec.ofNat 8 op ∉ assignedOpcodes)).length = 237 ∧
  (∀ (s : State) (cw : CommandWord) (rest : List HostMove),
    s.port = .command cw :: rest → (∃ e, decode cw = .error e) →
    step s = .next { s with port := rest, resp := 0 })

/-- R80, R85: a step takes the command word the host presents and runs the command it decodes to (the port as a list of
host moves is the model's choice, log entry 1). -/
def Obligations.StepRunsTheDecodedCommand : Prop :=
  ∀ (s : State) (cw : CommandWord) (rest : List HostMove) (i : Instr),
    s.port = .command cw :: rest → decode cw = .ok i → step s = exec i { s with port := rest }

/-- Log entry 2: presenting a table word makes the very next step run its command, in the same state. -/
def Obligations.PresentedWordRunsNext : Prop :=
  ∀ (s : State) (nbits w : Nat) (i : Instr),
    decodeTableWord nbits w = some i → step (s.withFetchWord nbits w) = exec i s

/-- R31, R223, R242: with no host move PXE is idle; the host's other move sets `ie` and nothing else (log entry 1). -/
def Obligations.HostMovesOtherThanCommands : Prop :=
  ∀ s : State, (s.port = [] → step s = .next s) ∧
    ∀ (v : Bool) (rest : List HostMove), s.port = .setIe v :: rest → step s = .next { s with ie := v, port := rest }

/-- R89: the pseudo-commands expand to the commands the spec gives. -/
def Obligations.PseudoCommandsExpand : Prop :=
  (∀ n, 30 ≤ n → n ≤ 32 → ∀ f, f < 256 → ∃ mask : Word, mask.toNat = 2 ^ n - 1 ∧
    Source.assemble n (.copyAll f) = some [.copyOut mask (BitVec.ofNat 8 f)]) ∧
  (∀ n, Source.assemble n .blank = some [.copyOut 0 0]) ∧
  (∀ n m f, m < 2 ^ 32 → f < 256 →
    Source.assemble n (.frame m f) = some [.copyOut (BitVec.ofNat 32 m) (BitVec.ofNat 8 f), .showOut]) ∧
  (∀ n dir c, c < 256 →
    Source.assemble n (.rot .inner dir c) = Source.assemble n (.rotInner dir c) ∧
    Source.assemble n (.rot .outer dir c) = Source.assemble n (.rotOuter dir c) ∧
    Source.assemble n (.rot .all dir c) = Source.assemble n (.rotAll dir c))

/-- R88: the command words of a well-formed line decode to the line's commands, for every line. -/
def Obligations.AssembledWordsDecode : Prop :=
  ∀ (n : Nat) (l : Source), l.wf = true →
    ∃ ws, Source.words n l = some ws ∧ ws.map decode = (Source.expand n l).map .ok

/-- R88, R89, R90: the text of the spec's examples assembles to their words for `N` = 30, and a comment changes nothing
(blanks and empty lines are the model's reading, log entry 23). -/
def Obligations.AssemblerTextGivesTheWords : Prop :=
  (∀ x ∈ ([("SET 31, #00FF00", [0x2000FF00001F0000]),
      ("COPYOUT 0x3FFFFFFF, 128", [0x2600003FFFFFFF80]),
      ("ROT.OUTER UP, 2", [0x3000000000010002]),
      ("ROT.ALL DOWN, 3", [0x3000000000020103]),
      ("MIX #FF0000, #0000FF, 128", [0x15FF00000000FF80]),
      ("SHOW", [0x4000000000000000]),
      ("COPYALL 200", [0x2600003FFFFFFFC8]),
      ("FRAME 0x3FFFFFFF, 255", [0x2600003FFFFFFFFF, 0x4000000000000000])] : List (String × List CommandWord)),
    textWords 30 x.1.toList = some x.2) ∧
  ∀ t comment : Text, ';' ∉ t → readLine (t ++ ';' :: comment) = readLine t

/-! ### Pixel arithmetic -/

/-- R111: PXRGB. -/
def Obligations.PxrgbRespondsWithItsChannels : Prop :=
  ∀ (r g b : Byte) (s : State),
    ∃ w, exec (.pxrgb r g b) s = .next { s with resp := w } ∧ IsChannelWord w r.toNat g.toNat b.toNat

/-- R112: PXINT gives its 24 bits, is PXRGB on the same bits, and 0 is black. -/
def Obligations.PxintRespondsWithItsInteger : Prop :=
  ∀ (v : BitVec 24) (s : State),
    ∃ w, exec (.pxint v) s = .next { s with resp := w } ∧ w.toNat = v.toNat ∧
      exec (.pxrgb (v.extractLsb' 16 8) (v.extractLsb' 8 8) (v.extractLsb' 0 8)) s = .next { s with resp := w } ∧
      (v = 0 → IsPixelWord w Pixel.black)

/-- R113: PXPAL gives `PALETTE(CID)`, a function of `CID` alone (the table is a free value, log entry 5). -/
def Obligations.PxpalRespondsWithThePalettePixel : Prop :=
  ∀ (cid : Byte) (s : State),
    ∃ w, exec (.pxpal cid) s = .next { s with resp := w } ∧ IsPixelWord w (Config.palette cid)

/-- R114, R118: SCALE, each channel `(c * f) >> 8`, and the corners of the formula. -/
def Obligations.ScaleMultipliesAndShifts : Prop :=
  (∀ (p : Pixel) (f : Byte) (s : State),
    ∃ w, exec (.scale p f) s = .next { s with resp := w } ∧
      IsChannelWord w (p.r.toNat * f.toNat / 256) (p.g.toNat * f.toNat / 256) (p.b.toNat * f.toNat / 256)) ∧
  (∀ c f : Byte,
    scaleCh c 0 = 0 ∧ scaleCh 0 f = 0 ∧ (scaleCh c 255).toNat = c.toNat - 1 ∧ (scaleCh c 128).toNat = c.toNat / 2 ∧
    (scaleCh c f).toNat ≤ 254 ∧ (scaleCh (scaleCh c 255) 255).toNat = c.toNat - 2)

/-- R115: ADD saturates each channel; it is commutative and associative, and black is its identity. -/
def Obligations.AddSaturates : Prop :=
  ∀ (a b c : Pixel) (s : State),
    (∃ w, exec (.add a b) s = .next { s with resp := w } ∧
      IsChannelWord w (min 255 (a.r.toNat + b.r.toNat)) (min 255 (a.g.toNat + b.g.toNat))
        (min 255 (a.b.toNat + b.b.toNat))) ∧
    exec (.add a b) s = exec (.add b a) s ∧
    addPx a Pixel.black = a ∧ addPx (addPx a b) c = addPx a (addPx b c)

/-- R116, R119: MIX is the formula, but for the two end fractions of an instance with `MIX_EXACT_ENDS`; without it the
end fractions scale by 255. -/
def Obligations.MixInterpolates : Prop :=
  ∀ (a b : Pixel) (f : Byte) (s : State),
    (∃ w, exec (.mix a b f) s = .next { s with resp := w } ∧
      (s.inst.mixExactEnds = true → f = 0 → IsPixelWord w a) ∧
      (s.inst.mixExactEnds = true → f = 255 → IsPixelWord w b) ∧
      (¬ (s.inst.mixExactEnds = true ∧ (f = 0 ∨ f = 255)) →
        IsChannelWord w ((a.r.toNat * (255 - f.toNat) + b.r.toNat * f.toNat) / 256)
          ((a.g.toNat * (255 - f.toNat) + b.g.toNat * f.toNat) / 256)
          ((a.b.toNat * (255 - f.toNat) + b.b.toNat * f.toNat) / 256))) ∧
    (s.inst.mixExactEnds = false →
      exec (.mix a b 0) s = exec (.scale a 255) s ∧ exec (.mix a b 255) s = exec (.scale b 255) s)

/-! ### Pixel stores -/

/-- R130: NOP, its word and its effect. -/
def Obligations.NopOnlyClearsResp : Prop :=
  decode 0x0000000000000000 = .ok .nop ∧ encode .nop = 0x0000000000000000 ∧
  ∀ s : State, exec .nop s = .next { s with resp := 0 }

/-- R131, R52, R55: SET writes the three bytes of pixel `IDX mod N` and nothing else. -/
def Obligations.SetWritesOnePixel : Prop :=
  ∀ (idx : BitVec 16) (p : Pixel) (s : State), s.Inv →
    ∃ m, exec (.setPx idx p) s = .next { s with work := m, resp := 0 } ∧ Memory.wf s.inst.n m ∧
      Memory.byteAt m (3 * (idx.toNat % s.inst.n)) = p.g ∧
      Memory.byteAt m (3 * (idx.toNat % s.inst.n) + 1) = p.r ∧
      Memory.byteAt m (3 * (idx.toNat % s.inst.n) + 2) = p.b ∧
      ∀ a, (a < 3 * (idx.toNat % s.inst.n) ∨ 3 * (idx.toNat % s.inst.n) + 3 ≤ a) →
        Memory.byteAt m a = Memory.byteAt s.work a

/-- R132: GET answers the working pixel `IDX mod N` and changes nothing else. -/
def Obligations.GetReadsOnePixel : Prop :=
  ∀ (idx : BitVec 16) (s : State),
    ∃ w, exec (.getPx idx) s = .next { s with resp := w } ∧
      IsPixelWord w (Memory.pixel s.work (idx.toNat % s.inst.n))

/-- R131, R132: what SET wrote, GET reads at every index that is the same mod `N`; other pixels read as before. -/
def Obligations.GetAfterSet : Prop :=
  ∀ (idx idx' : BitVec 16) (p : Pixel) (s : State), s.Inv →
    ∃ t w, execAll [.setPx idx p, .getPx idx'] s = .next t ∧ t.resp = w ∧
      (idx'.toNat % s.inst.n = idx.toNat % s.inst.n → IsPixelWord w p) ∧
      (idx'.toNat % s.inst.n ≠ idx.toNat % s.inst.n →
        IsPixelWord w (Memory.pixel s.work (idx'.toNat % s.inst.n)))

/-- R55: the effective index is `IDX mod N`, in `0..N-1`, and the wrap invariant holds for every `i + k*N` the operand
can carry. -/
def Obligations.IndexWrapsModuloN : Prop :=
  ∀ s : State, s.Inv →
    (∀ idx : BitVec 16, effectiveIndex s.inst idx = idx.toNat % s.inst.n ∧ effectiveIndex s.inst idx < s.inst.n) ∧
    (∀ i k : Nat, i + k * s.inst.n ≤ 65535 →
      exec (.getPx (BitVec.ofNat 16 (i + k * s.inst.n))) s = exec (.getPx (BitVec.ofNat 16 i)) s)

/-- R133: CLR blacks pixel `IDX mod N` and nothing else, and equals SET with black. -/
def Obligations.ClrBlacksOnePixel : Prop :=
  ∀ (idx : BitVec 16) (s : State), s.Inv →
    (∃ m, exec (.clrPx idx) s = .next { s with work := m, resp := 0 } ∧ Memory.wf s.inst.n m ∧
      (∀ a, 3 * (idx.toNat % s.inst.n) ≤ a → a < 3 * (idx.toNat % s.inst.n) + 3 → Memory.byteAt m a = 0) ∧
      (∀ a, (a < 3 * (idx.toNat % s.inst.n) ∨ 3 * (idx.toNat % s.inst.n) + 3 ≤ a) →
        Memory.byteAt m a = Memory.byteAt s.work a)) ∧
    exec (.clrPx idx) s = exec (.setPx idx Pixel.black) s

/-- R134: CLRALL makes every working pixel black and changes nothing else. -/
def Obligations.ClrAllBlacksTheWorkingStore : Prop :=
  ∀ s : State, s.Inv →
    ∃ m, exec .clrAll s = .next { s with work := m, resp := 0 } ∧ Memory.wf s.inst.n m ∧
      ∀ i, i < s.inst.n → Memory.pixel m i = Pixel.black

/-- R135: SETALL makes every working pixel its operand and changes nothing else; with black it is CLRALL. -/
def Obligations.SetAllFillsTheWorkingStore : Prop :=
  ∀ (p : Pixel) (s : State), s.Inv →
    (∃ m, exec (.setAll p) s = .next { s with work := m, resp := 0 } ∧ Memory.wf s.inst.n m ∧
      ∀ i, i < s.inst.n → Memory.pixel m i = p) ∧
    exec (.setAll Pixel.black) s = exec .clrAll s

/-- R136: SCALEALL scales every working pixel from its own old value and changes nothing else; with 0 it is CLRALL. -/
def Obligations.ScaleAllScalesEveryPixel : Prop :=
  ∀ (f : Byte) (s : State), s.Inv →
    (∃ m, exec (.scaleAll f) s = .next { s with work := m, resp := 0 } ∧ Memory.wf s.inst.n m ∧
      ∀ i, i < s.inst.n → IsScaled (Memory.pixel m i) (Memory.pixel s.work i) f) ∧
    exec (.scaleAll 0) s = exec .clrAll s

/-- R136: repeated `SCALEALL 255` fades the store to black in at most 255 commands. -/
def Obligations.RepeatedScaleAllFadesToBlack : Prop :=
  ∀ s : State, s.Inv →
    ∃ t, execAll (List.replicate 255 (.scaleAll 255)) s = .next t ∧
      ∀ i, i < s.inst.n → Memory.pixel t.work i = Pixel.black

/-- R137: COPYOUT writes every output pixel: the scaled working pixel where the mask bit is 1, black where it is 0.
`WORK` and everything else stay; the output depends on no earlier `OUT` and on no mask bit from `N` up; no channel
reaches 255. -/
def Obligations.CopyOutPublishesUnderTheMask : Prop :=
  ∀ (mask : Word) (f : Byte) (s : State), s.Inv →
    ∃ m, exec (.copyOut mask f) s = .next { s with out := m, resp := 0 } ∧ Memory.wf s.inst.n m ∧
      (∀ i, i < s.inst.n →
        (mask.getLsbD i = true → IsScaled (Memory.pixel m i) (Memory.pixel s.work i) f) ∧
        (mask.getLsbD i = false → Memory.pixel m i = Pixel.black)) ∧
      (∀ a, a < 3 * s.inst.n → (Memory.byteAt m a).toNat ≤ 254) ∧
      (∀ (mask' : Word) (out' : Memory), Memory.wf s.inst.n out' →
        (∀ i, i < s.inst.n → mask'.getLsbD i = mask.getLsbD i) →
        exec (.copyOut mask' f) { s with out := out' } = .next { s with out := m, resp := 0 })

/-- R137: a mask whose low `N` bits are 0, or brightness 0, leaves an all-black `OUT`, whatever the stores held. -/
def Obligations.CopyOutOfNothingIsBlack : Prop :=
  ∀ (mask : Word) (f : Byte) (s : State), s.Inv →
    (f = 0 ∨ ∀ i, i < s.inst.n → mask.getLsbD i = false) →
    ∃ m, exec (.copyOut mask f) s = .next { s with out := m, resp := 0 } ∧
      ∀ a, a < 3 * s.inst.n → Memory.byteAt m a = 0

/-! ### Rotation -/

/-- R150 to R153, R60: for every legal instance the derived sequence of a scope has no index twice and names real indices;
a ring's are the indices of the six leaves at its positions, and ALL names every index. The three sequences of the default
geometry are written out. -/
def Obligations.IdxXformIsABijectionOntoItsScope : Prop :=
  (∀ p : Instance, p.Legal →
    (∀ sc, (derivedSeq p sc).Nodup ∧ (derivedSeq p sc).length = maxl p sc ∧ ∀ i ∈ derivedSeq p sc, i < p.n) ∧
    (∀ i, i ∈ derivedSeq p .inner ↔ i < 30 ∧ p.innerLo ≤ i % 5 ∧ i % 5 < p.innerLo + p.innerCnt) ∧
    (∀ i, i ∈ derivedSeq p .outer ↔ i < 30 ∧ p.outerLo ≤ i % 5 ∧ i % 5 < p.outerLo + p.outerCnt) ∧
    (∀ i, i ∈ derivedSeq p .all ↔ i < p.n)) ∧
  derivedSeq Config.standard .inner = [0, 5, 10, 15, 20, 25] ∧
  derivedSeq Config.standard .outer = [1, 2, 3, 6, 7, 8, 11, 12, 13, 16, 17, 18, 21, 22, 23, 26, 27, 28] ∧
  ∀ p : Instance, derivedSeq p .all = List.range p.n

/-- R154: one single step of a rotation, in each direction, along the sequence of each scope. -/
def Obligations.SingleStepShiftsByOne : Prop :=
  ∀ (s : State) (sc : Scope), s.Inv →
    (∀ j, j < maxl s.inst sc →
      Memory.pixel (rotStep .up (idxXform s.inst sc) (maxl s.inst sc) s).work
        (idxXform s.inst sc ((j + 1) % maxl s.inst sc)) = Memory.pixel s.work (idxXform s.inst sc j) ∧
      Memory.pixel (rotStep .down (idxXform s.inst sc) (maxl s.inst sc) s).work (idxXform s.inst sc j) =
        Memory.pixel s.work (idxXform s.inst sc ((j + 1) % maxl s.inst sc))) ∧
    (∀ dir i, i ∉ derivedSeq s.inst sc →
      Memory.pixel (rotStep dir (idxXform s.inst sc) (maxl s.inst sc) s).work i = Memory.pixel s.work i)

/-- R155: the net effect of each rotation command on the pixels of its derived sequence. -/
def Obligations.RotationNetEffect : Prop :=
  ∀ (i : Instr) (sc : Scope) (dir : Dir) (cnt : Byte) (s : State), s.Inv →
    (i = .rotInner dir cnt ∧ sc = .inner ∨ i = .rotOuter dir cnt ∧ sc = .outer ∨ i = .rotAll dir cnt ∧ sc = .all) →
    ∃ t, exec i s = .next t ∧ ∀ j, j < maxl s.inst sc →
      (dir = .up → Memory.pixel t.work (idxXform s.inst sc ((j + cnt.toNat) % maxl s.inst sc)) =
        Memory.pixel s.work (idxXform s.inst sc j)) ∧
      (dir = .down → Memory.pixel t.work (idxXform s.inst sc j) =
        Memory.pixel s.work (idxXform s.inst sc ((j + cnt.toNat) % maxl s.inst sc)))

/-- R156, R157, R158, R160: a rotation command writes only the pixels of its derived sequence, `resp` and its own scratch
registers; every byte of `WORK` outside that sequence reads as before, and `OUT`, the lanes and every flag stay. -/
def Obligations.RotationFrame : Prop :=
  ∀ (i : Instr) (sc : Scope) (dir : Dir) (cnt : Byte) (s : State), s.Inv →
    (i = .rotInner dir cnt ∧ sc = .inner ∨ i = .rotOuter dir cnt ∧ sc = .outer ∨ i = .rotAll dir cnt ∧ sc = .all) →
    ∃ m j p, exec i s = .next { s with work := m, resp := 0, rotLeft := 0, rotJ := j, rotSaved := p } ∧
      Memory.wf s.inst.n m ∧
      ∀ a, a / 3 ∉ derivedSeq s.inst sc → Memory.byteAt m a = Memory.byteAt s.work a

/-- R160: the pixel values along the derived sequence are the same multiset before and after. -/
def Obligations.RotationKeepsTheMultiset : Prop :=
  ∀ (i : Instr) (sc : Scope) (dir : Dir) (cnt : Byte) (s : State), s.Inv →
    (i = .rotInner dir cnt ∧ sc = .inner ∨ i = .rotOuter dir cnt ∧ sc = .outer ∨ i = .rotAll dir cnt ∧ sc = .all) →
    ∃ t, exec i s = .next t ∧
      ((derivedSeq s.inst sc).map (Memory.pixel t.work)).Perm ((derivedSeq s.inst sc).map (Memory.pixel s.work))

/-- R155: `c` steps one way and `c` steps back restore `WORK`; a count that is a multiple of `maxl` changes nothing of it
(for ROT.ALL, `N` steps: R158). -/
def Obligations.RotationInverseAndPeriod : Prop :=
  ∀ (s : State) (cnt : Byte) (dir back : Dir), s.Inv → (dir = .up ∧ back = .down ∨ dir = .down ∧ back = .up) →
    (∃ t, execAll [.rotInner dir cnt, .rotInner back cnt] s = .next t ∧ t.work = s.work) ∧
    (∃ t, execAll [.rotOuter dir cnt, .rotOuter back cnt] s = .next t ∧ t.work = s.work) ∧
    (∃ t, execAll [.rotAll dir cnt, .rotAll back cnt] s = .next t ∧ t.work = s.work) ∧
    (cnt.toNat % maxl s.inst .inner = 0 → ∃ t, exec (.rotInner dir cnt) s = .next t ∧ t.work = s.work) ∧
    (cnt.toNat % maxl s.inst .outer = 0 → ∃ t, exec (.rotOuter dir cnt) s = .next t ∧ t.work = s.work) ∧
    (cnt.toNat % s.inst.n = 0 → ∃ t, exec (.rotAll dir cnt) s = .next t ∧ t.work = s.work)

/-! ### The serial protocol driver -/

/-- R171, R173, R174, R180: SHOW appends one frame, `24 * N` symbols in closed form over `OUT`, answers 0, leaves the pin
low and `ie` as it was; it writes nothing else but its own scratch registers. That the dead `ie_saved` keeps the saved `ie`
after SHOW is the model's deduction (log entry 13); what the position registers keep is left open. -/
def Obligations.ShowAppendsTheFrameOfOut : Prop :=
  ∀ s : State, ∃ f px pb bt, exec .showOut s =
      .next { s with
        txLog := s.txLog ++ [f], resp := 0, pin := false, txact := false,
        ieSaved := s.ie, txPix := px, txByte := pb, txBit := bt } ∧
    IsFrame f s.inst.n (Memory.pixel s.out)

/-- R175, R30: from the first symbol of a SHOW to its last `ie` is 0 and `txact` is 1, the frame so far is the first
symbols of the frame, and after SHOW `ie` is what it was before, for either value. -/
def Obligations.ShowMasksInterruptsThroughout : Prop :=
  ∀ s : State,
    (∀ k, k ≤ 24 * s.inst.n →
      (showProgress k s).1.ie = false ∧ (showProgress k s).1.txact = true ∧
      (showProgress k s).1.ieSaved = s.ie ∧
      (showProgress k s).2 = (List.range k).map (wireSymbol (Memory.pixel s.out))) ∧
    showProgress (24 * s.inst.n) s = showLoop s ∧
    ∃ t, exec .showOut s = .next t ∧ t.ie = s.ie ∧ t.txact = false

/-- R27: while symbol `k` is sent the serializer stands at pixel `k div 24`, byte `(k mod 24) div 8`, bit `7 - k mod 8`. -/
def Obligations.SerializerPosition : Prop :=
  ∀ (s : State) (k : Nat), s.Inv → k < 24 * s.inst.n →
    (showProgress (k + 1) s).1.txPix.toNat = k / 24 ∧
    (showProgress (k + 1) s).1.txByte.toNat = k % 24 / 8 ∧
    (showProgress (k + 1) s).1.txBit.toNat = 7 - k % 8

/-- R172, R174: each symbol takes one period `TBIT`, high for `T1H` or `T0H` timing ticks from its start and low for the
rest, the next period following at once; a frame of SHOW takes exactly `24 * N * TBIT` timing ticks. -/
def Obligations.WaveformOfAFrame : Prop :=
  (∀ (t : Timing) (f : Frame), t.Legal →
    (frameWave t f).length = f.length * t.tbit ∧
    ∀ k bit x, f[k]? = some bit → x < t.tbit →
      (frameWave t f)[k * t.tbit + x]? = some (decide (x < if bit then t.t1h else t.t0h))) ∧
  (∀ s : State, s.Inv → ∃ t f, exec .showOut s = .next t ∧ t.txLog = s.txLog ++ [f] ∧ f.length = 24 * s.inst.n ∧
    (frameWave s.inst.timing f).length = 24 * s.inst.n * s.inst.timing.tbit)

/-- R177, R249: when the host keeps the gaps, the pin is low for at least `TRESET` timing ticks after each frame. -/
def Obligations.GapFollowsEachFrame : Prop :=
  ∀ (t : Timing) (before after : List (Frame × Nat)) (f : Frame) (gap x : Nat), t.Legal →
    gapsKept t (before ++ (f, gap) :: after) → x < t.treset →
    (wireWave t (before ++ (f, gap) :: after))[(wireWave t before).length + f.length * t.tbit + x]? = some false

/-- R65, R247, R138: what a SHOW transmits is the snapshot the latest COPYOUT took, whatever commands other than COPYOUT
came between. -/
def Obligations.ShowTransmitsTheLatestCopyOut : Prop :=
  ∀ (s : State) (mask : Word) (f : Byte) (between : List Instr), s.Inv →
    (∀ i ∈ between, publishes i = false) →
    ∃ t frame before, execAll (.copyOut mask f :: (between ++ [.showOut])) s = .next t ∧
      t.txLog = before ++ [frame] ∧
      IsFrame frame s.inst.n
        fun i => if mask.getLsbD i then scalePx (Memory.pixel s.work i) f else Pixel.black

/-- R244, R137: `BLANK` then `SHOW` sends a frame of `24 * N` zeros, whatever the stores held. -/
def Obligations.BlankThenShowSendsZeros : Prop :=
  ∀ s : State, s.Inv →
    ∃ t, execAll (Source.expand s.inst.n .blank ++ [.showOut]) s = .next t ∧
      t.txLog = s.txLog ++ [List.replicate (24 * s.inst.n) false]

/-! ### The random source -/

/-- R190, R191, R192: NEXT32 advances each lane from its own value and answers the exclusive-or of the new lanes; with the
default recurrence each lane step is the spec's formula; the first three draws from reset are the spec's. -/
def Obligations.Next32AdvancesTheLanes : Prop :=
  (∀ s : State, exec .next32 s = .next { s with
      lanes := ⟨laneStep s.inst 0 s.lanes.z0, laneStep s.inst 1 s.lanes.z1,
        laneStep s.inst 2 s.lanes.z2, laneStep s.inst 3 s.lanes.z3⟩
      resp := laneStep s.inst 0 s.lanes.z0 ^^^ laneStep s.inst 1 s.lanes.z1 ^^^
        laneStep s.inst 2 s.lanes.z2 ^^^ laneStep s.inst 3 s.lanes.z3 }) ∧
  (∀ (p : Instance) (z : Word), p.laneRec = .lfsr113 →
    laneStep p 0 z = ((z &&& 0xFFFFFFFE) <<< 18) ^^^ (((z <<< 6) ^^^ z) >>> 13) ∧
    laneStep p 1 z = ((z &&& 0xFFFFFFF8) <<< 2) ^^^ (((z <<< 2) ^^^ z) >>> 27) ∧
    laneStep p 2 z = ((z &&& 0xFFFFFFF0) <<< 7) ^^^ (((z <<< 13) ^^^ z) >>> 21) ∧
    laneStep p 3 z = ((z &&& 0xFFFFFF80) <<< 13) ^^^ (((z <<< 3) ^^^ z) >>> 12)) ∧
  ∃ t u v, exec .next32 State.reset = .next t ∧ exec .next32 t = .next u ∧ exec .next32 u = .next v ∧
    t.lanes = ⟨0xC0E00061, 0x0000C0E0, 0x00181830, 0x0600001B⟩ ∧
    t.resp = 0xC6F8D8AA ∧ u.resp = 0x0D8BBC98 ∧ v.resp = 0x7603004E

/-- R193: each default lane step ignores its low bits, so a lane with only those bits steps to 0 and stays 0. -/
def Obligations.LowLaneBitsAreIgnored : Prop :=
  ∀ z : Word,
    lfsr113Step 0 (z &&& 0xFFFFFFFE) = lfsr113Step 0 z ∧ lfsr113Step 1 (z &&& 0xFFFFFFF8) = lfsr113Step 1 z ∧
    lfsr113Step 2 (z &&& 0xFFFFFFF0) = lfsr113Step 2 z ∧ lfsr113Step 3 (z &&& 0xFFFFFF80) = lfsr113Step 3 z ∧
    (z.toNat < 2 → lfsr113Step 0 z = 0) ∧ (z.toNat < 8 → lfsr113Step 1 z = 0) ∧
    (z.toNat < 16 → lfsr113Step 2 z = 0) ∧ (z.toNat < 128 → lfsr113Step 3 z = 0)

/-- R192, R243: the draws are a function of the lanes alone: two machines of one instance with equal lanes answer equal
values and keep equal lanes for any number of NEXT32. -/
def Obligations.DrawsAreDeterminedByTheLanes : Prop :=
  ∀ (s s' : State) (k : Nat), s'.inst = s.inst → s'.lanes = s.lanes →
    ∃ t t', execAll (List.replicate k .next32) s = .next t ∧ execAll (List.replicate k .next32) s' = .next t' ∧
      t'.lanes = t.lanes ∧ (0 < k → t'.resp = t.resp)

/-- R194: `fold16` is the exclusive-or of all 16 bits. -/
def Obligations.Fold16IsTheParity : Prop :=
  ∀ v : BitVec 16, fold16 v = xorBits ((List.range 16).map v.getLsbD)

/-- R194, R195, R196: HARVEST32 gathers 32 bits, the first into bit 31, each from `HARVEST_REPEATS` samples in order;
the accumulator after the exclusive-or is the answer; exactly `32 * HARVEST_REPEATS` samples are used and nothing else
changes. -/
def Obligations.HarvestFoldsItsSamples : Prop :=
  ∀ s : State, ∃ w : Word,
    exec .harvest32 s = .next { s with
      acc := s.acc ^^^ w, resp := s.acc ^^^ w,
      entropy := s.entropy.drop (32 * s.inst.harvestRepeats),
      samplesRead := s.samplesRead + 32 * s.inst.harvestRepeats } ∧
    ∀ k, k < 32 → w.getLsbD (31 - k) = gatheredBit s k

/-- R197, R198: RESEED is four harvests, lane 0 first, each lane the accumulator after its own; degenerate lanes are
replaced by `SEED_DEFAULT`; `seed_ok` and `resp` say which; `acc` keeps the fourth harvest's value. -/
def Obligations.ReseedLoadsFourHarvests : Prop :=
  ∀ s : State, ∃ t0 t1 t2 t3,
    exec .harvest32 s = .next t0 ∧ exec .harvest32 t0 = .next t1 ∧
    exec .harvest32 t1 = .next t2 ∧ exec .harvest32 t2 = .next t3 ∧
    (t0.acc ^^^ t1.acc ^^^ t2.acc ^^^ t3.acc ≠ 0 → exec .reseed s = .next { s with
      lanes := ⟨t0.acc, t1.acc, t2.acc, t3.acc⟩, acc := t3.acc, seedOk := true, resp := 1,
      entropy := t3.entropy, samplesRead := t3.samplesRead }) ∧
    (t0.acc ^^^ t1.acc ^^^ t2.acc ^^^ t3.acc = 0 → exec .reseed s = .next { s with
      lanes := ⟨s.inst.seedDefault, s.inst.seedDefault, s.inst.seedDefault, s.inst.seedDefault⟩,
      acc := t3.acc, seedOk := false, resp := 0,
      entropy := t3.entropy, samplesRead := t3.samplesRead })

/-- R199: with every sample of the command equal, RESEED falls back, answers 0 and leaves `acc` as it was; it has used
`128 * HARVEST_REPEATS` samples (R195). -/
def Obligations.StuckPortFailsTheReseed : Prop :=
  ∀ (s : State) (v : Sample), (∀ k, k < 128 * s.inst.harvestRepeats → s.sampleAt k = v) →
    exec .reseed s = .next { s with
      lanes := ⟨s.inst.seedDefault, s.inst.seedDefault, s.inst.seedDefault, s.inst.seedDefault⟩,
      seedOk := false, resp := 0,
      entropy := s.entropy.drop (128 * s.inst.harvestRepeats),
      samplesRead := s.samplesRead + 128 * s.inst.harvestRepeats }

/-- R196: with a stuck port the harvested word is all ones (odd repeats, odd parity) or 0. -/
def Obligations.StuckPortHarvest : Prop :=
  ∀ (s : State) (v : Sample), (∀ k, k < 32 * s.inst.harvestRepeats → s.sampleAt k = v) →
    ∃ t, exec .harvest32 s = .next t ∧
      (s.inst.harvestRepeats % 2 = 1 ∧ sampleParity v = true → t.acc = ~~~ s.acc) ∧
      (s.inst.harvestRepeats % 2 = 0 ∨ sampleParity v = false → t.acc = s.acc)

/-- R198: the lanes' prior value has no influence on a RESEED. -/
def Obligations.ReseedForgetsTheLanes : Prop :=
  ∀ (s : State) (z : Lanes), exec .reseed { s with lanes := z } = exec .reseed s

/-! ### Reset and whole-machine rules -/

/-- R37, R38: the reset values the spec gives, for every instance. -/
def Obligations.ResetValues : Prop :=
  ∀ p : Instance,
    (State.resetOf p).lanes = ⟨p.seedDefault, p.seedDefault, p.seedDefault, p.seedDefault⟩ ∧
    (State.resetOf p).acc = 0 ∧ (State.resetOf p).seedOk = true ∧ (State.resetOf p).txact = false ∧
    (State.resetOf p).pin = false ∧ (State.resetOf p).txLog = [] ∧ (State.resetOf p).resp = 0

/-- The invariant holds at reset, for the default instance and every legal one (R8, R9, R38, R39, R50). -/
def Obligations.ResetMeetsTheInvariant : Prop :=
  State.reset.Inv ∧ ∀ p : Instance, p.Legal → (State.resetOf p).Inv

/-- R35, R50, R52, R24, R30: every step keeps the invariant: the instance stays legal, both stores keep every byte address
once and rising, no SHOW is left in progress and the pin is low. -/
def Obligations.StepKeepsTheInvariant : Prop :=
  ∀ s t : State, s.Inv → step s = .next t → t.Inv

/-- R210: the set of exception causes is empty; one outcome for every command word and every state, the next state; every
command completes. That a step does not refuse a reserved word is the model's choice among the two of R86 (log entry 15);
that an idle step and a step on a `setIe` move exist is the model's form of the port (log entry 1; R223, R242). -/
def Obligations.EveryStepAnswersANextState : Prop :=
  IsEmpty Fault ∧ (∀ s : State, ∃ t, step s = .next t) ∧
  ∀ (i : Instr) (s : State), ∃ t, exec i s = .next t

/-- R40: which commands can change which element of state ("cmd writes" of the table), for every command. -/
def Obligations.OnlyTheListedCommandsWrite : Prop :=
  ∀ (i : Instr) (s t : State), exec i s = .next t →
    (t.lanes ≠ s.lanes → i = .next32 ∨ i = .reseed) ∧
    (t.acc ≠ s.acc → i = .harvest32 ∨ i = .reseed) ∧
    (t.work ≠ s.work → (∃ x p, i = .setPx x p) ∨ (∃ x, i = .clrPx x) ∨ i = .clrAll ∨ (∃ p, i = .setAll p) ∨
      (∃ f, i = .scaleAll f) ∨ (∃ d c, i = .rotInner d c) ∨ (∃ d c, i = .rotOuter d c) ∨ (∃ d c, i = .rotAll d c)) ∧
    (t.out ≠ s.out → ∃ m f, i = .copyOut m f) ∧
    (t.txLog ≠ s.txLog → i = .showOut) ∧
    (t.seedOk ≠ s.seedOk → i = .reseed) ∧
    (t.pin ≠ s.pin → i = .showOut) ∧ (t.txact ≠ s.txact → i = .showOut) ∧
    ((t.ieSaved, t.txPix, t.txByte, t.txBit) ≠ (s.ieSaved, s.txPix, s.txByte, s.txBit) → i = .showOut) ∧
    ((t.rotLeft, t.rotJ, t.rotSaved) ≠ (s.rotLeft, s.rotJ, s.rotSaved) →
      (∃ d c, i = .rotInner d c) ∨ (∃ d c, i = .rotOuter d c) ∨ (∃ d c, i = .rotAll d c))

/-- R31, R35, R214: no command changes the host's enable or a parameter, and no step changes a parameter. That no command
changes the list of coming host moves is about the model's own field `port` (log entry 1), and the parameters as a field are
log entry 3. -/
def Obligations.EnableAndParametersStay : Prop :=
  (∀ (i : Instr) (s t : State), exec i s = .next t → t.ie = s.ie ∧ t.inst = s.inst ∧ t.port = s.port) ∧
  (∀ s t : State, step s = .next t → t.inst = s.inst)

/-- R33: a command without a result answers 0. -/
def Obligations.CommandsWithoutResultAnswerZero : Prop :=
  ∀ (i : Instr) (s t : State), exec i s = .next t → hasResult i = false → t.resp = 0

/-- R25: the wire log only grows, by at most one frame a step, and an earlier frame never changes. -/
def Obligations.WireLogOnlyGrows : Prop :=
  ∀ s t : State, step s = .next t → t.txLog = s.txLog ∨ ∃ f, t.txLog = s.txLog ++ [f]

/-- R34, R195: only RESEED and HARVEST32 read the entropy port, and each uses exactly its number of samples. -/
def Obligations.EntropyUse : Prop :=
  ∀ (i : Instr) (s t : State), exec i s = .next t →
    (i = .harvest32 → t.samplesRead = s.samplesRead + 32 * s.inst.harvestRepeats ∧
      t.entropy = s.entropy.drop (32 * s.inst.harvestRepeats)) ∧
    (i = .reseed → t.samplesRead = s.samplesRead + 128 * s.inst.harvestRepeats ∧
      t.entropy = s.entropy.drop (128 * s.inst.harvestRepeats)) ∧
    (i ≠ .harvest32 ∧ i ≠ .reseed → t.samplesRead = s.samplesRead ∧ t.entropy = s.entropy)
end

