-- ==== Sys2Proof/Laws/Encoding.lean ====
section
/-!
SUPPORT. The laws of fields: what is placed at a field's bits is what is read there, a field elsewhere reads 0, and the
packed form of a pixel loses nothing.
-/

namespace Sys2Proof

/-- Bit `i` of a placed field. -/
theorem getLsbD_place {w : Nat} (v : BitVec w) (lo i : Nat) :
    (place v lo).getLsbD i = (decide (i < 64) && decide (lo ≤ i) && v.getLsbD (i - lo)) := by
  unfold place
  rw [BitVec.getLsbD_shiftLeft, BitVec.getLsbD_setWidth]
  by_cases h : i < 64 <;> by_cases h' : i < lo
  · simp [h, h', Nat.not_le.mpr h']
  · simp [h, h', Nat.not_lt.mp h', show i - lo < 64 by omega]
  · simp [h]
  · simp [h]

/-- Reading a field where it was placed. -/
theorem extract_place_self {w : Nat} (v : BitVec w) (lo : Nat) (h : lo + w ≤ 64) :
    (place v lo).extractLsb' lo w = v := by
  ext i hi
  rw [BitVec.getElem_extractLsb', getLsbD_place, Nat.add_sub_cancel_left, ← BitVec.getLsbD_eq_getElem]
  simp [show lo + i < 64 by omega]

/-- Reading a field where another was placed. -/
theorem extract_place_of_disjoint {w : Nat} (v : BitVec w) (lo at_ k : Nat) (h : at_ + k ≤ lo ∨ lo + w ≤ at_) :
    (place v lo).extractLsb' at_ k = 0 := by
  ext i hi
  rw [BitVec.getElem_extractLsb', getLsbD_place]
  obtain h | h := h
  · simp [show ¬ lo ≤ at_ + i by omega]
  · simp [BitVec.getLsbD_of_ge v (at_ + i - lo) (by omega)]

/-- A field read and placed again is the word's own bits there. -/
theorem place_extract (cw : CommandWord) (lo w : Nat) :
    place (cw.extractLsb' lo w) lo = cw &&& place (BitVec.allOnes w) lo := by
  apply BitVec.eq_of_getLsbD_eq
  intro i hi
  rw [BitVec.getLsbD_and, getLsbD_place, getLsbD_place, BitVec.getLsbD_extractLsb', BitVec.getLsbD_allOnes]
  by_cases h : lo ≤ i
  · rw [show lo + (i - lo) = i by omega]
    simp only [hi, h, decide_true, Bool.true_and]
    rw [Bool.and_comm]
  · simp [h]

/-- The packed form of R54 keeps every channel. -/
@[simp] theorem Pixel.ofPacked_pack (p : Pixel) : Pixel.ofPacked p.pack = p := by
  obtain ⟨r, g, b⟩ := p
  simp only [Pixel.ofPacked, Pixel.pack, Pixel.mk.injEq]
  refine ⟨?_, ?_, ?_⟩ <;> ext i hi <;> simp
  · rw [BitVec.getLsbD_of_ge g _ (by omega), BitVec.getLsbD_of_ge b _ (by omega), ← BitVec.getLsbD_eq_getElem]
    simp [show 16 + i < 24 by omega, show i < 24 by omega]
  · rw [← BitVec.getLsbD_eq_getElem]
    simp [show 8 + i < 16 by omega, show 8 + i < 24 by omega, show i < 24 by omega]
  · rw [← BitVec.getLsbD_eq_getElem]
    simp [show i < 16 by omega, show i < 8 by omega, show i < 24 by omega]

/-- Every packed integer is the packed form of its pixel. -/
@[simp] theorem Pixel.pack_ofPacked (v : BitVec 24) : (Pixel.ofPacked v).pack = v := by
  simp only [Pixel.ofPacked, Pixel.pack]
  ext i hi
  rw [← BitVec.getLsbD_eq_getElem, ← BitVec.getLsbD_eq_getElem]
  simp only [BitVec.getLsbD_or, BitVec.getLsbD_shiftLeft, BitVec.getLsbD_setWidth, BitVec.getLsbD_extractLsb']
  rcases (by omega : i < 8 ∨ (8 ≤ i ∧ i < 16) ∨ 16 ≤ i) with h | ⟨h, h'⟩ | h
  · simp [h, hi, show i < 16 by omega]
  · simp [hi, h', show ¬ i < 8 by omega, show i - 8 < 8 by omega, show 8 + (i - 8) = i by omega,
      show i - 8 < 24 by omega]
  · simp [hi, show ¬ i < 16 by omega, show ¬ i < 8 by omega, show i - 16 < 8 by omega,
      show 16 + (i - 16) = i by omega, show i - 16 < 24 by omega, show ¬ i - 8 < 8 by omega]

/-- The packed form as a number: red, green, blue from high to low (R54). -/
theorem Pixel.pack_toNat (p : Pixel) :
    p.pack.toNat = p.r.toNat * 65536 + p.g.toNat * 256 + p.b.toNat := by
  obtain ⟨r, g, b⟩ := p
  have hr := r.isLt
  have hg := g.isLt
  have hb := b.isLt
  simp only [Pixel.pack, BitVec.toNat_or, BitVec.toNat_shiftLeft, BitVec.toNat_setWidth]
  rw [Nat.mod_eq_of_lt (a := r.toNat) (by omega), Nat.mod_eq_of_lt (a := g.toNat) (by omega),
    Nat.mod_eq_of_lt (a := b.toNat) (by omega)]
  rw [Nat.shiftLeft_eq, Nat.shiftLeft_eq, Nat.mod_eq_of_lt (by omega), Nat.mod_eq_of_lt (by omega)]
  have h1 : r.toNat * 2 ^ 16 ||| g.toNat * 2 ^ 8 = r.toNat * 2 ^ 16 + g.toNat * 2 ^ 8 := by
    rw [Nat.mul_comm, ← Nat.two_pow_add_eq_or_of_lt (by omega)]
  rw [h1]
  have h2 : (r.toNat * 2 ^ 16 + g.toNat * 2 ^ 8) ||| b.toNat = (r.toNat * 2 ^ 16 + g.toNat * 2 ^ 8) + b.toNat := by
    rw [show r.toNat * 2 ^ 16 + g.toNat * 2 ^ 8 = 2 ^ 8 * (r.toNat * 256 + g.toNat) by ring,
      ← Nat.two_pow_add_eq_or_of_lt (by omega)]
  rw [h2]
  norm_num

end Sys2Proof
end

