-- ==== Sys2Proof/Laws/State.lean ====
section
/-!
SUPPORT. What each named update of State does to each field, one lemma a field, so that no later proof unfolds a record
update.
-/

namespace Sys2Proof.Machine

/-! ### `State.respond` -/

@[simp] theorem State.respond_lanes (s : State) (v : Word) : (s.respond v).lanes = s.lanes := rfl
@[simp] theorem State.respond_acc (s : State) (v : Word) : (s.respond v).acc = s.acc := rfl
@[simp] theorem State.respond_work (s : State) (v : Word) : (s.respond v).work = s.work := rfl
@[simp] theorem State.respond_out (s : State) (v : Word) : (s.respond v).out = s.out := rfl
@[simp] theorem State.respond_pin (s : State) (v : Word) : (s.respond v).pin = s.pin := rfl
@[simp] theorem State.respond_txLog (s : State) (v : Word) : (s.respond v).txLog = s.txLog := rfl
@[simp] theorem State.respond_seedOk (s : State) (v : Word) : (s.respond v).seedOk = s.seedOk := rfl
@[simp] theorem State.respond_txact (s : State) (v : Word) : (s.respond v).txact = s.txact := rfl
@[simp] theorem State.respond_ie (s : State) (v : Word) : (s.respond v).ie = s.ie := rfl
@[simp] theorem State.respond_ieSaved (s : State) (v : Word) : (s.respond v).ieSaved = s.ieSaved := rfl
@[simp] theorem State.respond_txPix (s : State) (v : Word) : (s.respond v).txPix = s.txPix := rfl
@[simp] theorem State.respond_txByte (s : State) (v : Word) : (s.respond v).txByte = s.txByte := rfl
@[simp] theorem State.respond_txBit (s : State) (v : Word) : (s.respond v).txBit = s.txBit := rfl
@[simp] theorem State.respond_rotLeft (s : State) (v : Word) : (s.respond v).rotLeft = s.rotLeft := rfl
@[simp] theorem State.respond_rotJ (s : State) (v : Word) : (s.respond v).rotJ = s.rotJ := rfl
@[simp] theorem State.respond_rotSaved (s : State) (v : Word) : (s.respond v).rotSaved = s.rotSaved := rfl
@[simp] theorem State.respond_resp (s : State) (v : Word) : (s.respond v).resp = v := rfl
@[simp] theorem State.respond_inst (s : State) (v : Word) : (s.respond v).inst = s.inst := rfl
@[simp] theorem State.respond_port (s : State) (v : Word) : (s.respond v).port = s.port := rfl
@[simp] theorem State.respond_entropy (s : State) (v : Word) : (s.respond v).entropy = s.entropy := rfl
@[simp] theorem State.respond_samplesRead (s : State) (v : Word) : (s.respond v).samplesRead = s.samplesRead := rfl

/-! ### `State.setWork` -/

@[simp] theorem State.setWork_lanes (s : State) (i : Nat) (p : Pixel) : (s.setWork i p).lanes = s.lanes := rfl
@[simp] theorem State.setWork_acc (s : State) (i : Nat) (p : Pixel) : (s.setWork i p).acc = s.acc := rfl
@[simp] theorem State.setWork_work (s : State) (i : Nat) (p : Pixel) : (s.setWork i p).work = Memory.setPixel s.work i p := rfl
@[simp] theorem State.setWork_out (s : State) (i : Nat) (p : Pixel) : (s.setWork i p).out = s.out := rfl
@[simp] theorem State.setWork_pin (s : State) (i : Nat) (p : Pixel) : (s.setWork i p).pin = s.pin := rfl
@[simp] theorem State.setWork_txLog (s : State) (i : Nat) (p : Pixel) : (s.setWork i p).txLog = s.txLog := rfl
@[simp] theorem State.setWork_seedOk (s : State) (i : Nat) (p : Pixel) : (s.setWork i p).seedOk = s.seedOk := rfl
@[simp] theorem State.setWork_txact (s : State) (i : Nat) (p : Pixel) : (s.setWork i p).txact = s.txact := rfl
@[simp] theorem State.setWork_ie (s : State) (i : Nat) (p : Pixel) : (s.setWork i p).ie = s.ie := rfl
@[simp] theorem State.setWork_ieSaved (s : State) (i : Nat) (p : Pixel) : (s.setWork i p).ieSaved = s.ieSaved := rfl
@[simp] theorem State.setWork_txPix (s : State) (i : Nat) (p : Pixel) : (s.setWork i p).txPix = s.txPix := rfl
@[simp] theorem State.setWork_txByte (s : State) (i : Nat) (p : Pixel) : (s.setWork i p).txByte = s.txByte := rfl
@[simp] theorem State.setWork_txBit (s : State) (i : Nat) (p : Pixel) : (s.setWork i p).txBit = s.txBit := rfl
@[simp] theorem State.setWork_rotLeft (s : State) (i : Nat) (p : Pixel) : (s.setWork i p).rotLeft = s.rotLeft := rfl
@[simp] theorem State.setWork_rotJ (s : State) (i : Nat) (p : Pixel) : (s.setWork i p).rotJ = s.rotJ := rfl
@[simp] theorem State.setWork_rotSaved (s : State) (i : Nat) (p : Pixel) : (s.setWork i p).rotSaved = s.rotSaved := rfl
@[simp] theorem State.setWork_resp (s : State) (i : Nat) (p : Pixel) : (s.setWork i p).resp = s.resp := rfl
@[simp] theorem State.setWork_inst (s : State) (i : Nat) (p : Pixel) : (s.setWork i p).inst = s.inst := rfl
@[simp] theorem State.setWork_port (s : State) (i : Nat) (p : Pixel) : (s.setWork i p).port = s.port := rfl
@[simp] theorem State.setWork_entropy (s : State) (i : Nat) (p : Pixel) : (s.setWork i p).entropy = s.entropy := rfl
@[simp] theorem State.setWork_samplesRead (s : State) (i : Nat) (p : Pixel) : (s.setWork i p).samplesRead = s.samplesRead := rfl

/-! ### `State.forWork` -/

@[simp] theorem State.forWork_lanes (s : State) (f : Memory → Nat → Pixel) : (s.forWork f).lanes = s.lanes := rfl
@[simp] theorem State.forWork_acc (s : State) (f : Memory → Nat → Pixel) : (s.forWork f).acc = s.acc := rfl
@[simp] theorem State.forWork_work (s : State) (f : Memory → Nat → Pixel) : (s.forWork f).work = Memory.forPixels s.inst.n f s.work := rfl
@[simp] theorem State.forWork_out (s : State) (f : Memory → Nat → Pixel) : (s.forWork f).out = s.out := rfl
@[simp] theorem State.forWork_pin (s : State) (f : Memory → Nat → Pixel) : (s.forWork f).pin = s.pin := rfl
@[simp] theorem State.forWork_txLog (s : State) (f : Memory → Nat → Pixel) : (s.forWork f).txLog = s.txLog := rfl
@[simp] theorem State.forWork_seedOk (s : State) (f : Memory → Nat → Pixel) : (s.forWork f).seedOk = s.seedOk := rfl
@[simp] theorem State.forWork_txact (s : State) (f : Memory → Nat → Pixel) : (s.forWork f).txact = s.txact := rfl
@[simp] theorem State.forWork_ie (s : State) (f : Memory → Nat → Pixel) : (s.forWork f).ie = s.ie := rfl
@[simp] theorem State.forWork_ieSaved (s : State) (f : Memory → Nat → Pixel) : (s.forWork f).ieSaved = s.ieSaved := rfl
@[simp] theorem State.forWork_txPix (s : State) (f : Memory → Nat → Pixel) : (s.forWork f).txPix = s.txPix := rfl
@[simp] theorem State.forWork_txByte (s : State) (f : Memory → Nat → Pixel) : (s.forWork f).txByte = s.txByte := rfl
@[simp] theorem State.forWork_txBit (s : State) (f : Memory → Nat → Pixel) : (s.forWork f).txBit = s.txBit := rfl
@[simp] theorem State.forWork_rotLeft (s : State) (f : Memory → Nat → Pixel) : (s.forWork f).rotLeft = s.rotLeft := rfl
@[simp] theorem State.forWork_rotJ (s : State) (f : Memory → Nat → Pixel) : (s.forWork f).rotJ = s.rotJ := rfl
@[simp] theorem State.forWork_rotSaved (s : State) (f : Memory → Nat → Pixel) : (s.forWork f).rotSaved = s.rotSaved := rfl
@[simp] theorem State.forWork_resp (s : State) (f : Memory → Nat → Pixel) : (s.forWork f).resp = s.resp := rfl
@[simp] theorem State.forWork_inst (s : State) (f : Memory → Nat → Pixel) : (s.forWork f).inst = s.inst := rfl
@[simp] theorem State.forWork_port (s : State) (f : Memory → Nat → Pixel) : (s.forWork f).port = s.port := rfl
@[simp] theorem State.forWork_entropy (s : State) (f : Memory → Nat → Pixel) : (s.forWork f).entropy = s.entropy := rfl
@[simp] theorem State.forWork_samplesRead (s : State) (f : Memory → Nat → Pixel) : (s.forWork f).samplesRead = s.samplesRead := rfl

/-! ### `State.publish` -/

@[simp] theorem State.publish_lanes (s : State) (m : Word) (f : Byte) : (s.publish m f).lanes = s.lanes := rfl
@[simp] theorem State.publish_acc (s : State) (m : Word) (f : Byte) : (s.publish m f).acc = s.acc := rfl
@[simp] theorem State.publish_work (s : State) (m : Word) (f : Byte) : (s.publish m f).work = s.work := rfl
@[simp] theorem State.publish_out (s : State) (m : Word) (f : Byte) : (s.publish m f).out = Memory.forPixels s.inst.n (fun _ i => publishedPixel s.work m f i) s.out := rfl
@[simp] theorem State.publish_pin (s : State) (m : Word) (f : Byte) : (s.publish m f).pin = s.pin := rfl
@[simp] theorem State.publish_txLog (s : State) (m : Word) (f : Byte) : (s.publish m f).txLog = s.txLog := rfl
@[simp] theorem State.publish_seedOk (s : State) (m : Word) (f : Byte) : (s.publish m f).seedOk = s.seedOk := rfl
@[simp] theorem State.publish_txact (s : State) (m : Word) (f : Byte) : (s.publish m f).txact = s.txact := rfl
@[simp] theorem State.publish_ie (s : State) (m : Word) (f : Byte) : (s.publish m f).ie = s.ie := rfl
@[simp] theorem State.publish_ieSaved (s : State) (m : Word) (f : Byte) : (s.publish m f).ieSaved = s.ieSaved := rfl
@[simp] theorem State.publish_txPix (s : State) (m : Word) (f : Byte) : (s.publish m f).txPix = s.txPix := rfl
@[simp] theorem State.publish_txByte (s : State) (m : Word) (f : Byte) : (s.publish m f).txByte = s.txByte := rfl
@[simp] theorem State.publish_txBit (s : State) (m : Word) (f : Byte) : (s.publish m f).txBit = s.txBit := rfl
@[simp] theorem State.publish_rotLeft (s : State) (m : Word) (f : Byte) : (s.publish m f).rotLeft = s.rotLeft := rfl
@[simp] theorem State.publish_rotJ (s : State) (m : Word) (f : Byte) : (s.publish m f).rotJ = s.rotJ := rfl
@[simp] theorem State.publish_rotSaved (s : State) (m : Word) (f : Byte) : (s.publish m f).rotSaved = s.rotSaved := rfl
@[simp] theorem State.publish_resp (s : State) (m : Word) (f : Byte) : (s.publish m f).resp = s.resp := rfl
@[simp] theorem State.publish_inst (s : State) (m : Word) (f : Byte) : (s.publish m f).inst = s.inst := rfl
@[simp] theorem State.publish_port (s : State) (m : Word) (f : Byte) : (s.publish m f).port = s.port := rfl
@[simp] theorem State.publish_entropy (s : State) (m : Word) (f : Byte) : (s.publish m f).entropy = s.entropy := rfl
@[simp] theorem State.publish_samplesRead (s : State) (m : Word) (f : Byte) : (s.publish m f).samplesRead = s.samplesRead := rfl

/-! ### `State.enterCritical` -/

@[simp] theorem State.enterCritical_lanes (s : State) : (s.enterCritical).lanes = s.lanes := rfl
@[simp] theorem State.enterCritical_acc (s : State) : (s.enterCritical).acc = s.acc := rfl
@[simp] theorem State.enterCritical_work (s : State) : (s.enterCritical).work = s.work := rfl
@[simp] theorem State.enterCritical_out (s : State) : (s.enterCritical).out = s.out := rfl
@[simp] theorem State.enterCritical_pin (s : State) : (s.enterCritical).pin = s.pin := rfl
@[simp] theorem State.enterCritical_txLog (s : State) : (s.enterCritical).txLog = s.txLog := rfl
@[simp] theorem State.enterCritical_seedOk (s : State) : (s.enterCritical).seedOk = s.seedOk := rfl
@[simp] theorem State.enterCritical_txact (s : State) : (s.enterCritical).txact = true := rfl
@[simp] theorem State.enterCritical_ie (s : State) : (s.enterCritical).ie = false := rfl
@[simp] theorem State.enterCritical_ieSaved (s : State) : (s.enterCritical).ieSaved = s.ie := rfl
@[simp] theorem State.enterCritical_txPix (s : State) : (s.enterCritical).txPix = s.txPix := rfl
@[simp] theorem State.enterCritical_txByte (s : State) : (s.enterCritical).txByte = s.txByte := rfl
@[simp] theorem State.enterCritical_txBit (s : State) : (s.enterCritical).txBit = s.txBit := rfl
@[simp] theorem State.enterCritical_rotLeft (s : State) : (s.enterCritical).rotLeft = s.rotLeft := rfl
@[simp] theorem State.enterCritical_rotJ (s : State) : (s.enterCritical).rotJ = s.rotJ := rfl
@[simp] theorem State.enterCritical_rotSaved (s : State) : (s.enterCritical).rotSaved = s.rotSaved := rfl
@[simp] theorem State.enterCritical_resp (s : State) : (s.enterCritical).resp = s.resp := rfl
@[simp] theorem State.enterCritical_inst (s : State) : (s.enterCritical).inst = s.inst := rfl
@[simp] theorem State.enterCritical_port (s : State) : (s.enterCritical).port = s.port := rfl
@[simp] theorem State.enterCritical_entropy (s : State) : (s.enterCritical).entropy = s.entropy := rfl
@[simp] theorem State.enterCritical_samplesRead (s : State) : (s.enterCritical).samplesRead = s.samplesRead := rfl

/-! ### `State.leaveCritical` -/

@[simp] theorem State.leaveCritical_lanes (s : State) : (s.leaveCritical).lanes = s.lanes := rfl
@[simp] theorem State.leaveCritical_acc (s : State) : (s.leaveCritical).acc = s.acc := rfl
@[simp] theorem State.leaveCritical_work (s : State) : (s.leaveCritical).work = s.work := rfl
@[simp] theorem State.leaveCritical_out (s : State) : (s.leaveCritical).out = s.out := rfl
@[simp] theorem State.leaveCritical_pin (s : State) : (s.leaveCritical).pin = false := rfl
@[simp] theorem State.leaveCritical_txLog (s : State) : (s.leaveCritical).txLog = s.txLog := rfl
@[simp] theorem State.leaveCritical_seedOk (s : State) : (s.leaveCritical).seedOk = s.seedOk := rfl
@[simp] theorem State.leaveCritical_txact (s : State) : (s.leaveCritical).txact = false := rfl
@[simp] theorem State.leaveCritical_ie (s : State) : (s.leaveCritical).ie = s.ieSaved := rfl
@[simp] theorem State.leaveCritical_ieSaved (s : State) : (s.leaveCritical).ieSaved = s.ieSaved := rfl
@[simp] theorem State.leaveCritical_txPix (s : State) : (s.leaveCritical).txPix = s.txPix := rfl
@[simp] theorem State.leaveCritical_txByte (s : State) : (s.leaveCritical).txByte = s.txByte := rfl
@[simp] theorem State.leaveCritical_txBit (s : State) : (s.leaveCritical).txBit = s.txBit := rfl
@[simp] theorem State.leaveCritical_rotLeft (s : State) : (s.leaveCritical).rotLeft = s.rotLeft := rfl
@[simp] theorem State.leaveCritical_rotJ (s : State) : (s.leaveCritical).rotJ = s.rotJ := rfl
@[simp] theorem State.leaveCritical_rotSaved (s : State) : (s.leaveCritical).rotSaved = s.rotSaved := rfl
@[simp] theorem State.leaveCritical_resp (s : State) : (s.leaveCritical).resp = s.resp := rfl
@[simp] theorem State.leaveCritical_inst (s : State) : (s.leaveCritical).inst = s.inst := rfl
@[simp] theorem State.leaveCritical_port (s : State) : (s.leaveCritical).port = s.port := rfl
@[simp] theorem State.leaveCritical_entropy (s : State) : (s.leaveCritical).entropy = s.entropy := rfl
@[simp] theorem State.leaveCritical_samplesRead (s : State) : (s.leaveCritical).samplesRead = s.samplesRead := rfl

/-! ### `State.logFrame` -/

@[simp] theorem State.logFrame_lanes (s : State) (f : Frame) : (s.logFrame f).lanes = s.lanes := rfl
@[simp] theorem State.logFrame_acc (s : State) (f : Frame) : (s.logFrame f).acc = s.acc := rfl
@[simp] theorem State.logFrame_work (s : State) (f : Frame) : (s.logFrame f).work = s.work := rfl
@[simp] theorem State.logFrame_out (s : State) (f : Frame) : (s.logFrame f).out = s.out := rfl
@[simp] theorem State.logFrame_pin (s : State) (f : Frame) : (s.logFrame f).pin = s.pin := rfl
@[simp] theorem State.logFrame_txLog (s : State) (f : Frame) : (s.logFrame f).txLog = s.txLog ++ [f] := rfl
@[simp] theorem State.logFrame_seedOk (s : State) (f : Frame) : (s.logFrame f).seedOk = s.seedOk := rfl
@[simp] theorem State.logFrame_txact (s : State) (f : Frame) : (s.logFrame f).txact = s.txact := rfl
@[simp] theorem State.logFrame_ie (s : State) (f : Frame) : (s.logFrame f).ie = s.ie := rfl
@[simp] theorem State.logFrame_ieSaved (s : State) (f : Frame) : (s.logFrame f).ieSaved = s.ieSaved := rfl
@[simp] theorem State.logFrame_txPix (s : State) (f : Frame) : (s.logFrame f).txPix = s.txPix := rfl
@[simp] theorem State.logFrame_txByte (s : State) (f : Frame) : (s.logFrame f).txByte = s.txByte := rfl
@[simp] theorem State.logFrame_txBit (s : State) (f : Frame) : (s.logFrame f).txBit = s.txBit := rfl
@[simp] theorem State.logFrame_rotLeft (s : State) (f : Frame) : (s.logFrame f).rotLeft = s.rotLeft := rfl
@[simp] theorem State.logFrame_rotJ (s : State) (f : Frame) : (s.logFrame f).rotJ = s.rotJ := rfl
@[simp] theorem State.logFrame_rotSaved (s : State) (f : Frame) : (s.logFrame f).rotSaved = s.rotSaved := rfl
@[simp] theorem State.logFrame_resp (s : State) (f : Frame) : (s.logFrame f).resp = s.resp := rfl
@[simp] theorem State.logFrame_inst (s : State) (f : Frame) : (s.logFrame f).inst = s.inst := rfl
@[simp] theorem State.logFrame_port (s : State) (f : Frame) : (s.logFrame f).port = s.port := rfl
@[simp] theorem State.logFrame_entropy (s : State) (f : Frame) : (s.logFrame f).entropy = s.entropy := rfl
@[simp] theorem State.logFrame_samplesRead (s : State) (f : Frame) : (s.logFrame f).samplesRead = s.samplesRead := rfl

/-! ### `State.reportSeed` -/

@[simp] theorem State.reportSeed_lanes (s : State) (ok : Bool) : (s.reportSeed ok).lanes = s.lanes := rfl
@[simp] theorem State.reportSeed_acc (s : State) (ok : Bool) : (s.reportSeed ok).acc = s.acc := rfl
@[simp] theorem State.reportSeed_work (s : State) (ok : Bool) : (s.reportSeed ok).work = s.work := rfl
@[simp] theorem State.reportSeed_out (s : State) (ok : Bool) : (s.reportSeed ok).out = s.out := rfl
@[simp] theorem State.reportSeed_pin (s : State) (ok : Bool) : (s.reportSeed ok).pin = s.pin := rfl
@[simp] theorem State.reportSeed_txLog (s : State) (ok : Bool) : (s.reportSeed ok).txLog = s.txLog := rfl
@[simp] theorem State.reportSeed_seedOk (s : State) (ok : Bool) : (s.reportSeed ok).seedOk = ok := rfl
@[simp] theorem State.reportSeed_txact (s : State) (ok : Bool) : (s.reportSeed ok).txact = s.txact := rfl
@[simp] theorem State.reportSeed_ie (s : State) (ok : Bool) : (s.reportSeed ok).ie = s.ie := rfl
@[simp] theorem State.reportSeed_ieSaved (s : State) (ok : Bool) : (s.reportSeed ok).ieSaved = s.ieSaved := rfl
@[simp] theorem State.reportSeed_txPix (s : State) (ok : Bool) : (s.reportSeed ok).txPix = s.txPix := rfl
@[simp] theorem State.reportSeed_txByte (s : State) (ok : Bool) : (s.reportSeed ok).txByte = s.txByte := rfl
@[simp] theorem State.reportSeed_txBit (s : State) (ok : Bool) : (s.reportSeed ok).txBit = s.txBit := rfl
@[simp] theorem State.reportSeed_rotLeft (s : State) (ok : Bool) : (s.reportSeed ok).rotLeft = s.rotLeft := rfl
@[simp] theorem State.reportSeed_rotJ (s : State) (ok : Bool) : (s.reportSeed ok).rotJ = s.rotJ := rfl
@[simp] theorem State.reportSeed_rotSaved (s : State) (ok : Bool) : (s.reportSeed ok).rotSaved = s.rotSaved := rfl
@[simp] theorem State.reportSeed_resp (s : State) (ok : Bool) : (s.reportSeed ok).resp = (BitVec.ofBool ok).setWidth 32 := rfl
@[simp] theorem State.reportSeed_inst (s : State) (ok : Bool) : (s.reportSeed ok).inst = s.inst := rfl
@[simp] theorem State.reportSeed_port (s : State) (ok : Bool) : (s.reportSeed ok).port = s.port := rfl
@[simp] theorem State.reportSeed_entropy (s : State) (ok : Bool) : (s.reportSeed ok).entropy = s.entropy := rfl
@[simp] theorem State.reportSeed_samplesRead (s : State) (ok : Bool) : (s.reportSeed ok).samplesRead = s.samplesRead := rfl

/-! ### `State.afterSample` -/

@[simp] theorem State.afterSample_lanes (s : State) : (s.afterSample).lanes = s.lanes := rfl
@[simp] theorem State.afterSample_acc (s : State) : (s.afterSample).acc = s.acc := rfl
@[simp] theorem State.afterSample_work (s : State) : (s.afterSample).work = s.work := rfl
@[simp] theorem State.afterSample_out (s : State) : (s.afterSample).out = s.out := rfl
@[simp] theorem State.afterSample_pin (s : State) : (s.afterSample).pin = s.pin := rfl
@[simp] theorem State.afterSample_txLog (s : State) : (s.afterSample).txLog = s.txLog := rfl
@[simp] theorem State.afterSample_seedOk (s : State) : (s.afterSample).seedOk = s.seedOk := rfl
@[simp] theorem State.afterSample_txact (s : State) : (s.afterSample).txact = s.txact := rfl
@[simp] theorem State.afterSample_ie (s : State) : (s.afterSample).ie = s.ie := rfl
@[simp] theorem State.afterSample_ieSaved (s : State) : (s.afterSample).ieSaved = s.ieSaved := rfl
@[simp] theorem State.afterSample_txPix (s : State) : (s.afterSample).txPix = s.txPix := rfl
@[simp] theorem State.afterSample_txByte (s : State) : (s.afterSample).txByte = s.txByte := rfl
@[simp] theorem State.afterSample_txBit (s : State) : (s.afterSample).txBit = s.txBit := rfl
@[simp] theorem State.afterSample_rotLeft (s : State) : (s.afterSample).rotLeft = s.rotLeft := rfl
@[simp] theorem State.afterSample_rotJ (s : State) : (s.afterSample).rotJ = s.rotJ := rfl
@[simp] theorem State.afterSample_rotSaved (s : State) : (s.afterSample).rotSaved = s.rotSaved := rfl
@[simp] theorem State.afterSample_resp (s : State) : (s.afterSample).resp = s.resp := rfl
@[simp] theorem State.afterSample_inst (s : State) : (s.afterSample).inst = s.inst := rfl
@[simp] theorem State.afterSample_port (s : State) : (s.afterSample).port = s.port := rfl
@[simp] theorem State.afterSample_entropy (s : State) : (s.afterSample).entropy = s.entropy.tail := rfl
@[simp] theorem State.afterSample_samplesRead (s : State) : (s.afterSample).samplesRead = s.samplesRead + 1 := rfl

/-! ### `State.savePixel` -/

@[simp] theorem State.savePixel_lanes (s : State) (i : Nat) : (s.savePixel i).lanes = s.lanes := rfl
@[simp] theorem State.savePixel_acc (s : State) (i : Nat) : (s.savePixel i).acc = s.acc := rfl
@[simp] theorem State.savePixel_work (s : State) (i : Nat) : (s.savePixel i).work = s.work := rfl
@[simp] theorem State.savePixel_out (s : State) (i : Nat) : (s.savePixel i).out = s.out := rfl
@[simp] theorem State.savePixel_pin (s : State) (i : Nat) : (s.savePixel i).pin = s.pin := rfl
@[simp] theorem State.savePixel_txLog (s : State) (i : Nat) : (s.savePixel i).txLog = s.txLog := rfl
@[simp] theorem State.savePixel_seedOk (s : State) (i : Nat) : (s.savePixel i).seedOk = s.seedOk := rfl
@[simp] theorem State.savePixel_txact (s : State) (i : Nat) : (s.savePixel i).txact = s.txact := rfl
@[simp] theorem State.savePixel_ie (s : State) (i : Nat) : (s.savePixel i).ie = s.ie := rfl
@[simp] theorem State.savePixel_ieSaved (s : State) (i : Nat) : (s.savePixel i).ieSaved = s.ieSaved := rfl
@[simp] theorem State.savePixel_txPix (s : State) (i : Nat) : (s.savePixel i).txPix = s.txPix := rfl
@[simp] theorem State.savePixel_txByte (s : State) (i : Nat) : (s.savePixel i).txByte = s.txByte := rfl
@[simp] theorem State.savePixel_txBit (s : State) (i : Nat) : (s.savePixel i).txBit = s.txBit := rfl
@[simp] theorem State.savePixel_rotLeft (s : State) (i : Nat) : (s.savePixel i).rotLeft = s.rotLeft := rfl
@[simp] theorem State.savePixel_rotJ (s : State) (i : Nat) : (s.savePixel i).rotJ = s.rotJ := rfl
@[simp] theorem State.savePixel_rotSaved (s : State) (i : Nat) : (s.savePixel i).rotSaved = Memory.pixel s.work i := rfl
@[simp] theorem State.savePixel_resp (s : State) (i : Nat) : (s.savePixel i).resp = s.resp := rfl
@[simp] theorem State.savePixel_inst (s : State) (i : Nat) : (s.savePixel i).inst = s.inst := rfl
@[simp] theorem State.savePixel_port (s : State) (i : Nat) : (s.savePixel i).port = s.port := rfl
@[simp] theorem State.savePixel_entropy (s : State) (i : Nat) : (s.savePixel i).entropy = s.entropy := rfl
@[simp] theorem State.savePixel_samplesRead (s : State) (i : Nat) : (s.savePixel i).samplesRead = s.samplesRead := rfl

/-! ### `State.restorePixel` -/

@[simp] theorem State.restorePixel_lanes (s : State) (i : Nat) : (s.restorePixel i).lanes = s.lanes := rfl
@[simp] theorem State.restorePixel_acc (s : State) (i : Nat) : (s.restorePixel i).acc = s.acc := rfl
@[simp] theorem State.restorePixel_work (s : State) (i : Nat) : (s.restorePixel i).work = Memory.setPixel s.work i s.rotSaved := rfl
@[simp] theorem State.restorePixel_out (s : State) (i : Nat) : (s.restorePixel i).out = s.out := rfl
@[simp] theorem State.restorePixel_pin (s : State) (i : Nat) : (s.restorePixel i).pin = s.pin := rfl
@[simp] theorem State.restorePixel_txLog (s : State) (i : Nat) : (s.restorePixel i).txLog = s.txLog := rfl
@[simp] theorem State.restorePixel_seedOk (s : State) (i : Nat) : (s.restorePixel i).seedOk = s.seedOk := rfl
@[simp] theorem State.restorePixel_txact (s : State) (i : Nat) : (s.restorePixel i).txact = s.txact := rfl
@[simp] theorem State.restorePixel_ie (s : State) (i : Nat) : (s.restorePixel i).ie = s.ie := rfl
@[simp] theorem State.restorePixel_ieSaved (s : State) (i : Nat) : (s.restorePixel i).ieSaved = s.ieSaved := rfl
@[simp] theorem State.restorePixel_txPix (s : State) (i : Nat) : (s.restorePixel i).txPix = s.txPix := rfl
@[simp] theorem State.restorePixel_txByte (s : State) (i : Nat) : (s.restorePixel i).txByte = s.txByte := rfl
@[simp] theorem State.restorePixel_txBit (s : State) (i : Nat) : (s.restorePixel i).txBit = s.txBit := rfl
@[simp] theorem State.restorePixel_rotLeft (s : State) (i : Nat) : (s.restorePixel i).rotLeft = s.rotLeft := rfl
@[simp] theorem State.restorePixel_rotJ (s : State) (i : Nat) : (s.restorePixel i).rotJ = s.rotJ := rfl
@[simp] theorem State.restorePixel_rotSaved (s : State) (i : Nat) : (s.restorePixel i).rotSaved = s.rotSaved := rfl
@[simp] theorem State.restorePixel_resp (s : State) (i : Nat) : (s.restorePixel i).resp = s.resp := rfl
@[simp] theorem State.restorePixel_inst (s : State) (i : Nat) : (s.restorePixel i).inst = s.inst := rfl
@[simp] theorem State.restorePixel_port (s : State) (i : Nat) : (s.restorePixel i).port = s.port := rfl
@[simp] theorem State.restorePixel_entropy (s : State) (i : Nat) : (s.restorePixel i).entropy = s.entropy := rfl
@[simp] theorem State.restorePixel_samplesRead (s : State) (i : Nat) : (s.restorePixel i).samplesRead = s.samplesRead := rfl

/-! ### `State.shiftPixel` -/

@[simp] theorem State.shiftPixel_lanes (s : State) (j d c : Nat) : (s.shiftPixel j d c).lanes = s.lanes := rfl
@[simp] theorem State.shiftPixel_acc (s : State) (j d c : Nat) : (s.shiftPixel j d c).acc = s.acc := rfl
@[simp] theorem State.shiftPixel_work (s : State) (j d c : Nat) : (s.shiftPixel j d c).work = Memory.setPixel s.work d (Memory.pixel s.work c) := rfl
@[simp] theorem State.shiftPixel_out (s : State) (j d c : Nat) : (s.shiftPixel j d c).out = s.out := rfl
@[simp] theorem State.shiftPixel_pin (s : State) (j d c : Nat) : (s.shiftPixel j d c).pin = s.pin := rfl
@[simp] theorem State.shiftPixel_txLog (s : State) (j d c : Nat) : (s.shiftPixel j d c).txLog = s.txLog := rfl
@[simp] theorem State.shiftPixel_seedOk (s : State) (j d c : Nat) : (s.shiftPixel j d c).seedOk = s.seedOk := rfl
@[simp] theorem State.shiftPixel_txact (s : State) (j d c : Nat) : (s.shiftPixel j d c).txact = s.txact := rfl
@[simp] theorem State.shiftPixel_ie (s : State) (j d c : Nat) : (s.shiftPixel j d c).ie = s.ie := rfl
@[simp] theorem State.shiftPixel_ieSaved (s : State) (j d c : Nat) : (s.shiftPixel j d c).ieSaved = s.ieSaved := rfl
@[simp] theorem State.shiftPixel_txPix (s : State) (j d c : Nat) : (s.shiftPixel j d c).txPix = s.txPix := rfl
@[simp] theorem State.shiftPixel_txByte (s : State) (j d c : Nat) : (s.shiftPixel j d c).txByte = s.txByte := rfl
@[simp] theorem State.shiftPixel_txBit (s : State) (j d c : Nat) : (s.shiftPixel j d c).txBit = s.txBit := rfl
@[simp] theorem State.shiftPixel_rotLeft (s : State) (j d c : Nat) : (s.shiftPixel j d c).rotLeft = s.rotLeft := rfl
@[simp] theorem State.shiftPixel_rotJ (s : State) (j d c : Nat) : (s.shiftPixel j d c).rotJ = BitVec.ofNat 5 j := rfl
@[simp] theorem State.shiftPixel_rotSaved (s : State) (j d c : Nat) : (s.shiftPixel j d c).rotSaved = s.rotSaved := rfl
@[simp] theorem State.shiftPixel_resp (s : State) (j d c : Nat) : (s.shiftPixel j d c).resp = s.resp := rfl
@[simp] theorem State.shiftPixel_inst (s : State) (j d c : Nat) : (s.shiftPixel j d c).inst = s.inst := rfl
@[simp] theorem State.shiftPixel_port (s : State) (j d c : Nat) : (s.shiftPixel j d c).port = s.port := rfl
@[simp] theorem State.shiftPixel_entropy (s : State) (j d c : Nat) : (s.shiftPixel j d c).entropy = s.entropy := rfl
@[simp] theorem State.shiftPixel_samplesRead (s : State) (j d c : Nat) : (s.shiftPixel j d c).samplesRead = s.samplesRead := rfl

/-! ### `State.present` -/

@[simp] theorem State.present_lanes (s : State) (cw : CommandWord) : (s.present cw).lanes = s.lanes := rfl
@[simp] theorem State.present_acc (s : State) (cw : CommandWord) : (s.present cw).acc = s.acc := rfl
@[simp] theorem State.present_work (s : State) (cw : CommandWord) : (s.present cw).work = s.work := rfl
@[simp] theorem State.present_out (s : State) (cw : CommandWord) : (s.present cw).out = s.out := rfl
@[simp] theorem State.present_pin (s : State) (cw : CommandWord) : (s.present cw).pin = s.pin := rfl
@[simp] theorem State.present_txLog (s : State) (cw : CommandWord) : (s.present cw).txLog = s.txLog := rfl
@[simp] theorem State.present_seedOk (s : State) (cw : CommandWord) : (s.present cw).seedOk = s.seedOk := rfl
@[simp] theorem State.present_txact (s : State) (cw : CommandWord) : (s.present cw).txact = s.txact := rfl
@[simp] theorem State.present_ie (s : State) (cw : CommandWord) : (s.present cw).ie = s.ie := rfl
@[simp] theorem State.present_ieSaved (s : State) (cw : CommandWord) : (s.present cw).ieSaved = s.ieSaved := rfl
@[simp] theorem State.present_txPix (s : State) (cw : CommandWord) : (s.present cw).txPix = s.txPix := rfl
@[simp] theorem State.present_txByte (s : State) (cw : CommandWord) : (s.present cw).txByte = s.txByte := rfl
@[simp] theorem State.present_txBit (s : State) (cw : CommandWord) : (s.present cw).txBit = s.txBit := rfl
@[simp] theorem State.present_rotLeft (s : State) (cw : CommandWord) : (s.present cw).rotLeft = s.rotLeft := rfl
@[simp] theorem State.present_rotJ (s : State) (cw : CommandWord) : (s.present cw).rotJ = s.rotJ := rfl
@[simp] theorem State.present_rotSaved (s : State) (cw : CommandWord) : (s.present cw).rotSaved = s.rotSaved := rfl
@[simp] theorem State.present_resp (s : State) (cw : CommandWord) : (s.present cw).resp = s.resp := rfl
@[simp] theorem State.present_inst (s : State) (cw : CommandWord) : (s.present cw).inst = s.inst := rfl
@[simp] theorem State.present_port (s : State) (cw : CommandWord) : (s.present cw).port = .command cw :: s.port := rfl
@[simp] theorem State.present_entropy (s : State) (cw : CommandWord) : (s.present cw).entropy = s.entropy := rfl
@[simp] theorem State.present_samplesRead (s : State) (cw : CommandWord) : (s.present cw).samplesRead = s.samplesRead := rfl

end Sys2Proof.Machine
end

