-- ==== Sys2Proof/Laws/Random.lean ====
section
/-!
SUPPORT. What the harvester's loops do to the machine: they use samples and change nothing else; and which samples come
next after some were used.
-/

namespace Sys2Proof.Machine

/-- The machine after `k` reads of the entropy port. -/
def State.afterSamples (s : State) (k : Nat) : State :=
  { s with entropy := s.entropy.drop k, samplesRead := s.samplesRead + k }

theorem State.afterSamples_zero (s : State) : s.afterSamples 0 = s := rfl

theorem State.afterSample_eq (s : State) : s.afterSample = s.afterSamples 1 := by
  simp [State.afterSample, State.afterSamples]

theorem State.afterSamples_afterSamples (s : State) (j k : Nat) :
    (s.afterSamples j).afterSamples k = s.afterSamples (j + k) := by
  simp [State.afterSamples, List.drop_drop, Nat.add_assoc]

/-- After `j` reads the next samples are the ones that were `j` further on. -/
theorem State.sampleAt_afterSamples (s : State) (j k : Nat) :
    (s.afterSamples j).sampleAt k = s.sampleAt (j + k) := by
  simp only [State.sampleAt, State.afterSamples, List.getD_eq_getElem?_getD, List.getElem?_drop, Nat.add_assoc]

/-- `harvest_bit()` uses its samples and changes nothing else. -/
theorem harvestBit_state (reps : Nat) (b : Bool) (s : State) : (harvestBit reps b s).2 = s.afterSamples reps := by
  induction reps generalizing b s with
  | zero => rfl
  | succ reps ih =>
    rw [harvestBit, ih, State.afterSample_eq, State.afterSamples_afterSamples, Nat.add_comm]

/-- `harvest_bit()` folds its samples together in order. -/
theorem harvestBit_value (reps : Nat) (b : Bool) (s : State) :
    (harvestBit reps b s).1 = ((List.range reps).map fun r => sampleBit (s.sampleAt r)).foldl (fun a c => a ^^ c) b := by
  induction reps generalizing b s with
  | zero => rfl
  | succ reps ih =>
    rw [harvestBit, ih, List.range_succ_eq_map, List.map_cons, List.foldl_cons, List.map_map]
    congr 1
    apply List.map_congr_left
    intro r _
    rw [State.afterSample_eq, State.sampleAt_afterSamples, Nat.add_comm]
    rfl

/-- The word of a harvest uses `count * HARVEST_REPEATS` samples and changes nothing else. -/
theorem harvestWord_state (count : Nat) (w : Word) (s : State) :
    (harvestWord count w s).2 = s.afterSamples (count * s.inst.harvestRepeats) := by
  induction count generalizing w s with
  | zero => rw [Nat.zero_mul]; rfl
  | succ count ih =>
    rw [harvestWord, ih, harvestBit_state, State.afterSamples_afterSamples]
    congr 1
    rw [Nat.add_mul, Nat.one_mul, Nat.add_comm]
    rfl

/-- A harvest changes `acc` and uses `32 * HARVEST_REPEATS` samples; nothing else changes. -/
theorem harvest_eq (s : State) :
    harvest s = { s.afterSamples (32 * s.inst.harvestRepeats) with acc := s.acc ^^^ (harvestWord 32 0 s).1 } := by
  rw [harvest, harvestWord_state]

/-- The word of a harvest depends on the coming samples and the repeat count alone. -/
theorem harvestWord_congr (count : Nat) (w : Word) {s t : State} (hr : t.inst.harvestRepeats = s.inst.harvestRepeats)
    (hs : ∀ k, k < count * s.inst.harvestRepeats → t.sampleAt k = s.sampleAt k) :
    (harvestWord count w t).1 = (harvestWord count w s).1 := by
  induction count generalizing w s t with
  | zero => rfl
  | succ count ih =>
    have hle : s.inst.harvestRepeats ≤ (count + 1) * s.inst.harvestRepeats := Nat.le_mul_of_pos_left _ (by omega)
    have hb : (harvestBit t.inst.harvestRepeats false t).1 = (harvestBit s.inst.harvestRepeats false s).1 := by
      rw [harvestBit_value, harvestBit_value, hr]
      congr 1
      apply List.map_congr_left
      intro r hm
      rw [hs r (Nat.lt_of_lt_of_le (List.mem_range.mp hm) hle)]
    rw [harvestWord, harvestWord, hb, harvestBit_state, harvestBit_state]
    apply ih
    · exact hr
    · intro k hk
      rw [State.sampleAt_afterSamples, State.sampleAt_afterSamples, hr]
      apply hs
      have hk' : k < count * s.inst.harvestRepeats := hk
      rw [Nat.add_mul, Nat.one_mul]
      omega

end Sys2Proof.Machine
end

