-- ==== Sys2Proof/Laws/Memory.lean ====
section
/-!
SUPPORT. The laws of the stores: reading after writing, the canonical form, equal reads make equal data, and what the loop
of the bulk commands leaves.
-/

namespace Sys2Proof.Machine

/-! ### Bytes -/

theorem Memory.read?_isSome_iff (m : Memory) (a : Nat) :
    (Memory.read? m a).isSome = true ↔ a ∈ m.map Prod.fst := by
  induction m with
  | nil => simp [Memory.read?]
  | cons c rest ih =>
    by_cases h : c.1 = a
    · simp [Memory.read?, h]
    · simp [Memory.read?, h, Ne.symm h] at ih ⊢
      exact ih

theorem Memory.writeByte_keys (m : Memory) (a : Nat) (v : Byte) :
    (Memory.writeByte m a v).map Prod.fst = m.map Prod.fst := by
  induction m with
  | nil => rfl
  | cons c rest ih =>
    by_cases h : c.1 = a <;> simp [Memory.writeByte, h] at ih ⊢ <;> exact ih

theorem Memory.read?_writeByte (m : Memory) (a b : Nat) (v : Byte) :
    Memory.read? (Memory.writeByte m a v) b =
      if b = a then (Memory.read? m b).map fun _ => v else Memory.read? m b := by
  induction m with
  | nil => simp [Memory.writeByte, Memory.read?]
  | cons c rest ih =>
    rw [Memory.writeByte] at ih ⊢
    rw [List.map_cons, Memory.read?, Memory.read?, ih]
    by_cases hca : c.1 = a <;> by_cases hcb : c.1 = b <;> by_cases hba : b = a <;> simp_all

/-- A write leaves every other address alone. -/
theorem Memory.byteAt_writeByte_of_ne (m : Memory) {a b : Nat} (v : Byte) (h : b ≠ a) :
    Memory.byteAt (Memory.writeByte m a v) b = Memory.byteAt m b := by
  rw [Memory.byteAt, Memory.read?_writeByte, if_neg h, ← Memory.byteAt]

/-- A read after a write to the same address gives the value written. -/
theorem Memory.byteAt_writeByte_self (m : Memory) {a : Nat} (v : Byte) (h : a ∈ m.map Prod.fst) :
    Memory.byteAt (Memory.writeByte m a v) a = v := by
  rw [Memory.byteAt, Memory.read?_writeByte, if_pos rfl]
  obtain ⟨x, hx⟩ := Option.isSome_iff_exists.mp ((Memory.read?_isSome_iff m a).mpr h)
  simp [hx]

/-! ### The canonical form -/

theorem Memory.wf_writeByte {n : Nat} {m : Memory} (h : Memory.wf n m) (a : Nat) (v : Byte) :
    Memory.wf n (Memory.writeByte m a v) := by
  rw [Memory.wf, Memory.writeByte_keys]; exact h

theorem Memory.wf_writeBytes {n : Nat} (vs : List Byte) :
    ∀ {m : Memory} (_ : Memory.wf n m) (a : Nat), Memory.wf n (Memory.writeBytes m a vs) := by
  induction vs with
  | nil => intro m h a; exact h
  | cons v vs ih => intro m h a; exact ih (Memory.wf_writeByte h a v) (a + 1)

theorem Memory.wf_setPixel {n : Nat} {m : Memory} (h : Memory.wf n m) (i : Nat) (p : Pixel) :
    Memory.wf n (Memory.setPixel m i p) :=
  Memory.wf_writeBytes _ h _

theorem Memory.wf_foldl {n : Nat} {β : Type} (f : Memory → β → Memory)
    (hf : ∀ m x, Memory.wf n m → Memory.wf n (f m x)) (l : List β) :
    ∀ {m : Memory}, Memory.wf n m → Memory.wf n (l.foldl f m) := by
  induction l with
  | nil => intro m h; exact h
  | cons x l ih => intro m h; exact ih (hf m x h)

theorem Memory.wf_forPixels {n : Nat} {m : Memory} (h : Memory.wf n m) (k : Nat) (value : Memory → Nat → Pixel) :
    Memory.wf n (Memory.forPixels k value m) :=
  Memory.wf_foldl _ (fun _ i hm => Memory.wf_setPixel hm i _) _ h

/-- The canonical form means strictly rising addresses. -/
theorem Memory.wf_rising {n : Nat} {m : Memory} (h : Memory.wf n m) : (m.map Prod.fst).Pairwise (· < ·) := by
  rw [h]; exact List.pairwise_lt_range

theorem Memory.wf_mem {n : Nat} {m : Memory} (h : Memory.wf n m) {a : Nat} :
    a ∈ m.map Prod.fst ↔ a < 3 * n := by
  rw [h]; exact List.mem_range

theorem Memory.wf_ofBytes (n : Nat) (content : Nat → Byte) : Memory.wf n (Memory.ofBytes n content) := by
  simp [Memory.wf, Memory.ofBytes, Function.comp_def]

theorem Memory.read?_map_cells (content : Nat → Byte) (l : List Nat) {a : Nat} (h : a ∈ l) :
    Memory.read? (l.map fun a => (a, content a)) a = some (content a) := by
  induction l with
  | nil => simp at h
  | cons x l ih =>
    by_cases hx : x = a
    · simp [Memory.read?, hx]
    · simp only [List.map_cons, Memory.read?, hx, if_false]
      exact ih (by simpa [Ne.symm hx] using h)

theorem Memory.byteAt_ofBytes {n : Nat} (content : Nat → Byte) {a : Nat} (h : a < 3 * n) :
    Memory.byteAt (Memory.ofBytes n content) a = content a := by
  rw [Memory.byteAt, Memory.ofBytes, Memory.read?_map_cells content _ (List.mem_range.mpr h), Option.getD_some]

/-- The cells of a store in canonical form are its reads. -/
theorem Memory.eq_ofBytes {n : Nat} {m : Memory} (h : Memory.wf n m) :
    m = Memory.ofBytes n (Memory.byteAt m) := by
  have key : ∀ (m : Memory), (m.map Prod.fst).Nodup → m = (m.map Prod.fst).map fun a => (a, Memory.byteAt m a) := by
    intro m
    induction m with
    | nil => intro _; rfl
    | cons c rest ih =>
      intro hn
      rw [List.map_cons, List.nodup_cons] at hn
      have hb : Memory.byteAt (c :: rest) c.1 = c.2 := by simp [Memory.byteAt, Memory.read?]
      have hr : ∀ a ∈ rest.map Prod.fst, Memory.byteAt (c :: rest) a = Memory.byteAt rest a := by
        intro a ha
        have hne : c.1 ≠ a := fun he => hn.1 (he ▸ ha)
        simp [Memory.byteAt, Memory.read?, hne]
      rw [List.map_cons, List.map_cons, hb]
      congr 1
      exact (ih hn.2).trans (List.map_congr_left fun a ha => by rw [hr a ha])
  have hn : (m.map Prod.fst).Nodup := by rw [h]; exact List.nodup_range
  have := key m hn
  rw [h] at this
  exact this

/-- Equal reads, equal data: what the canonical form is for. -/
theorem Memory.ext_byteAt {n : Nat} {m m' : Memory} (h : Memory.wf n m) (h' : Memory.wf n m')
    (hb : ∀ a, a < 3 * n → Memory.byteAt m a = Memory.byteAt m' a) : m = m' := by
  rw [Memory.eq_ofBytes h, Memory.eq_ofBytes h']
  exact List.map_congr_left fun a ha => by rw [hb a (List.mem_range.mp ha)]

/-! ### Pixels -/

theorem Memory.setPixel_eq (m : Memory) (i : Nat) (p : Pixel) :
    Memory.setPixel m i p =
      Memory.writeByte (Memory.writeByte (Memory.writeByte m (pixelAddr i) p.g) (pixelAddr i + 1) p.r)
        (pixelAddr i + 2) p.b := rfl

/-- A pixel write leaves every byte outside its three alone. -/
theorem Memory.byteAt_setPixel_of_outside (m : Memory) (i : Nat) (p : Pixel) {a : Nat}
    (h : a < pixelAddr i ∨ pixelAddr i + 3 ≤ a) : Memory.byteAt (Memory.setPixel m i p) a = Memory.byteAt m a := by
  rw [Memory.setPixel_eq, Memory.byteAt_writeByte_of_ne _ _ (by omega), Memory.byteAt_writeByte_of_ne _ _ (by omega),
    Memory.byteAt_writeByte_of_ne _ _ (by omega)]

/-- The three bytes a pixel write leaves: green, red, blue (R52). -/
theorem Memory.byteAt_setPixel_bytes {n : Nat} {m : Memory} (h : Memory.wf n m) {i : Nat} (hi : i < n) (p : Pixel) :
    Memory.byteAt (Memory.setPixel m i p) (pixelAddr i) = p.g ∧
    Memory.byteAt (Memory.setPixel m i p) (pixelAddr i + 1) = p.r ∧
    Memory.byteAt (Memory.setPixel m i p) (pixelAddr i + 2) = p.b := by
  have hin : ∀ {m : Memory}, Memory.wf n m → ∀ k, k < 3 → pixelAddr i + k ∈ m.map Prod.fst := by
    intro m hm k hk
    rw [Memory.wf_mem hm, pixelAddr]; omega
  have h0 := Memory.wf_writeByte h (pixelAddr i) p.g
  have h1 := Memory.wf_writeByte h0 (pixelAddr i + 1) p.r
  rw [Memory.setPixel_eq]
  refine ⟨?_, ?_, Memory.byteAt_writeByte_self _ _ (hin h1 2 (by omega))⟩
  · rw [Memory.byteAt_writeByte_of_ne _ _ (by omega), Memory.byteAt_writeByte_of_ne _ _ (by omega),
      Memory.byteAt_writeByte_self _ _ (by simpa using hin h 0 (by omega))]
  · rw [Memory.byteAt_writeByte_of_ne _ _ (by omega), Memory.byteAt_writeByte_self _ _ (hin h0 1 (by omega))]

theorem Memory.pixel_setPixel_self {n : Nat} {m : Memory} (h : Memory.wf n m) {i : Nat} (hi : i < n) (p : Pixel) :
    Memory.pixel (Memory.setPixel m i p) i = p := by
  obtain ⟨hg, hr, hb⟩ := Memory.byteAt_setPixel_bytes h hi p
  rw [Memory.pixel, hg, hr, hb]

theorem Memory.pixel_setPixel_of_ne (m : Memory) {i j : Nat} (p : Pixel) (h : j ≠ i) :
    Memory.pixel (Memory.setPixel m i p) j = Memory.pixel m j := by
  have : ∀ k, k < 3 → Memory.byteAt (Memory.setPixel m i p) (pixelAddr j + k) = Memory.byteAt m (pixelAddr j + k) :=
    fun k hk => Memory.byteAt_setPixel_of_outside m i p (by simp only [pixelAddr]; omega)
  have h0 := this 0 (by omega)
  rw [Nat.add_zero] at h0
  rw [Memory.pixel, Memory.pixel, h0, this 1 (by omega), this 2 (by omega)]

theorem Memory.pixel_setPixel {n : Nat} {m : Memory} (h : Memory.wf n m) {i : Nat} (hi : i < n) (p : Pixel) (j : Nat) :
    Memory.pixel (Memory.setPixel m i p) j = if j = i then p else Memory.pixel m j := by
  split
  · next he => rw [he]; exact Memory.pixel_setPixel_self h hi p
  · next he => exact Memory.pixel_setPixel_of_ne m p he

/-- Each byte of a store is a channel of one of its pixels. -/
theorem Memory.byteAt_eq_channel (m : Memory) (a : Nat) :
    Memory.byteAt m a =
      if a % 3 = 0 then (Memory.pixel m (a / 3)).g
      else if a % 3 = 1 then (Memory.pixel m (a / 3)).r
      else (Memory.pixel m (a / 3)).b := by
  simp only [Memory.pixel, pixelAddr]
  split
  · next h => congr 1; omega
  · split
    · next h => congr 1; omega
    · next h => congr 1; omega

/-- Equal pixels, equal data. -/
theorem Memory.ext_pixel {n : Nat} {m m' : Memory} (h : Memory.wf n m) (h' : Memory.wf n m')
    (hp : ∀ i, i < n → Memory.pixel m i = Memory.pixel m' i) : m = m' :=
  Memory.ext_byteAt h h' fun a ha => by
    rw [Memory.byteAt_eq_channel, Memory.byteAt_eq_channel m', hp _ (by omega)]

/-! ### The loop of the bulk commands -/

/-- After the first `k` turns of a loop whose value at `i` depends on pixel `i` alone, the pixels below `k` are done and
the others are as before. -/
theorem Memory.pixel_forPixels {n : Nat} {m : Memory} (h : Memory.wf n m) (g : Nat → Pixel → Pixel) {k : Nat}
    (hk : k ≤ n) (j : Nat) :
    Memory.pixel (Memory.forPixels k (fun m i => g i (Memory.pixel m i)) m) j =
      if j < k then g j (Memory.pixel m j) else Memory.pixel m j := by
  induction k generalizing j with
  | zero => simp [Memory.forPixels]
  | succ k ih =>
    have hw := Memory.wf_forPixels h k (fun m i => g i (Memory.pixel m i))
    have hs : Memory.forPixels (k + 1) (fun m i => g i (Memory.pixel m i)) m =
        Memory.setPixel (Memory.forPixels k (fun m i => g i (Memory.pixel m i)) m) k
          (g k (Memory.pixel (Memory.forPixels k (fun m i => g i (Memory.pixel m i)) m) k)) := by
      simp [Memory.forPixels, List.range_succ]
    rw [hs, Memory.pixel_setPixel hw (by omega), ih (by omega), ih (by omega)]
    by_cases hj : j = k
    · simp [hj]
    · have hlt : j < k + 1 ↔ j < k := by omega
      simp [hj, hlt]

/-- The loop writes no byte outside its pixels. -/
theorem Memory.byteAt_forPixels_of_outside (m : Memory) (value : Memory → Nat → Pixel) (k : Nat) {a : Nat}
    (ha : 3 * k ≤ a) : Memory.byteAt (Memory.forPixels k value m) a = Memory.byteAt m a := by
  induction k with
  | zero => rfl
  | succ k ih =>
    have hs : Memory.forPixels (k + 1) value m =
        Memory.setPixel (Memory.forPixels k value m) k (value (Memory.forPixels k value m) k) := by
      simp [Memory.forPixels, List.range_succ]
    rw [hs, Memory.byteAt_setPixel_of_outside _ _ _ (by simp only [pixelAddr]; omega), ih (by omega)]

end Sys2Proof.Machine
end

