-- ==== Sys2Proof/Laws/Rotate.lean ====
section
/-!
SUPPORT. What the loops of a rotation can change: the bytes of `WORK` at the derived sequence, and the three scratch
registers. Later proofs cite these and never unfold the loops for their frame.
-/

namespace Sys2Proof.Machine

theorem mem_countdown {k j : Nat} : j ∈ countdown k ↔ 0 < j ∧ j ≤ k := by
  induction k with
  | zero => simp [countdown]; omega
  | succ k ih => simp only [countdown, List.mem_cons, ih]; omega

/-- The inner loop of a single step changes `work` and `rotJ` alone. -/
theorem foldl_shiftPixel_eq (dst src : Nat → Nat) (l : List Nat) (s : State) :
    l.foldl (fun t j => State.shiftPixel t j (dst j) (src j)) s =
      { s with
        work := (l.foldl (fun t j => State.shiftPixel t j (dst j) (src j)) s).work
        rotJ := (l.foldl (fun t j => State.shiftPixel t j (dst j) (src j)) s).rotJ } := by
  induction l generalizing s with
  | nil => rfl
  | cons j l ih => rw [List.foldl_cons, ih]; rfl

/-- A single step changes `work`, `rotJ` and `rotSaved` alone. -/
theorem rotStep_eq (dir : Dir) (q : Nat → Nat) (len : Nat) (s : State) :
    rotStep dir q len s =
      { s with
        work := (rotStep dir q len s).work
        rotJ := (rotStep dir q len s).rotJ
        rotSaved := (rotStep dir q len s).rotSaved } := by
  cases dir <;>
  · simp only [rotStep, rotStepUp, rotStepDown]
    rw [foldl_shiftPixel_eq]
    rfl

/-- The whole rotation changes `work` and the three scratch registers alone, and ends with `rot_left` = 0. -/
theorem rotLoop_eq (dir : Dir) (q : Nat → Nat) (len c : Nat) (s : State) :
    rotLoop dir q len c s =
      { s with
        work := (rotLoop dir q len c s).work
        rotLeft := 0
        rotJ := (rotLoop dir q len c s).rotJ
        rotSaved := (rotLoop dir q len c s).rotSaved } := by
  induction c generalizing s with
  | zero => rfl
  | succ c ih => rw [rotLoop, ih, rotStep_eq]

theorem wf_foldl_shiftPixel {n : Nat} (dst src : Nat → Nat) (l : List Nat) {s : State} (h : Memory.wf n s.work) :
    Memory.wf n (l.foldl (fun t j => State.shiftPixel t j (dst j) (src j)) s).work := by
  induction l generalizing s with
  | nil => exact h
  | cons j l ih => exact ih (Memory.wf_setPixel h _ _)

theorem wf_rotStep {n : Nat} (dir : Dir) (q : Nat → Nat) (len : Nat) {s : State} (h : Memory.wf n s.work) :
    Memory.wf n (rotStep dir q len s).work := by
  cases dir with
  | up => exact Memory.wf_setPixel (wf_foldl_shiftPixel q (fun j => q (j - 1)) _ (s := s.savePixel _) h) _ _
  | down => exact Memory.wf_setPixel (wf_foldl_shiftPixel q (fun j => q (j + 1)) _ (s := s.savePixel _) h) _ _

theorem wf_rotLoop {n : Nat} (dir : Dir) (q : Nat → Nat) (len c : Nat) {s : State} (h : Memory.wf n s.work) :
    Memory.wf n (rotLoop dir q len c s).work := by
  induction c generalizing s with
  | zero => exact h
  | succ c ih => exact ih (wf_rotStep dir q len h)

/-- A byte outside a pixel write, by its pixel's index. -/
theorem byteAt_setPixel_of_index_ne (m : Memory) {i a : Nat} (p : Pixel) (h : a / 3 ≠ i) :
    Memory.byteAt (Memory.setPixel m i p) a = Memory.byteAt m a :=
  Memory.byteAt_setPixel_of_outside m i p (by simp only [pixelAddr]; omega)

theorem byteAt_foldl_shiftPixel (dst src : Nat → Nat) (l : List Nat) (s : State) {a : Nat} (h : ∀ j ∈ l, a / 3 ≠ dst j) :
    Memory.byteAt (l.foldl (fun t j => State.shiftPixel t j (dst j) (src j)) s).work a = Memory.byteAt s.work a := by
  induction l generalizing s with
  | nil => rfl
  | cons j l ih =>
    rw [List.foldl_cons, ih _ fun k hk => h k (List.mem_cons_of_mem _ hk)]
    exact byteAt_setPixel_of_index_ne _ _ (h j List.mem_cons_self)

/-- A single step writes only the pixels of its sequence. -/
theorem byteAt_rotStep (dir : Dir) {q : Nat → Nat} {len : Nat} (hl : 0 < len) (s : State) {a : Nat}
    (h : ∀ j, j < len → a / 3 ≠ q j) :
    Memory.byteAt (rotStep dir q len s).work a = Memory.byteAt s.work a := by
  cases dir with
  | up =>
    refine (byteAt_setPixel_of_index_ne _ _ (h 0 hl)).trans
      (byteAt_foldl_shiftPixel q (fun j => q (j - 1)) _ (s.savePixel _) fun j hj => ?_)
    exact h j (by have := mem_countdown.mp hj; omega)
  | down =>
    refine (byteAt_setPixel_of_index_ne _ _ (h (len - 1) (by omega))).trans
      (byteAt_foldl_shiftPixel q (fun j => q (j + 1)) _ (s.savePixel _) fun j hj => ?_)
    exact h j (by have := List.mem_range.mp hj; omega)

/-- The whole rotation writes only the pixels of its sequence. -/
theorem byteAt_rotLoop (dir : Dir) {q : Nat → Nat} {len : Nat} (hl : 0 < len) (c : Nat) (s : State) {a : Nat}
    (h : ∀ j, j < len → a / 3 ≠ q j) :
    Memory.byteAt (rotLoop dir q len c s).work a = Memory.byteAt s.work a := by
  induction c generalizing s with
  | zero => rfl
  | succ c ih => rw [rotLoop, ih, byteAt_rotStep dir hl _ h]

end Sys2Proof.Machine
end

