-- ==== Sys2Proof/Laws/Serial.lean ====
section
/-!
SUPPORT. What SHOW's loop does to the machine and what it gathers.
-/

namespace Sys2Proof.Machine

/-- Emitting at a list of positions changes the position registers and the pin alone. -/
theorem foldl_emitAt_state (l : List (Nat × Nat × Nat)) (x : State × Frame) :
    (l.foldl emitAt x).1 =
      { x.1 with
        txPix := (l.foldl emitAt x).1.txPix
        txByte := (l.foldl emitAt x).1.txByte
        txBit := (l.foldl emitAt x).1.txBit
        pin := (l.foldl emitAt x).1.pin } := by
  induction l generalizing x with
  | nil => rfl
  | cons pos l ih => rw [List.foldl_cons, ih]; rfl

/-- Emitting gathers the bits of `OUT` at the positions, in order. -/
theorem foldl_emitAt_frame (l : List (Nat × Nat × Nat)) (x : State × Frame) :
    (l.foldl emitAt x).2 = x.2 ++ l.map (symbolAt x.1) := by
  induction l generalizing x with
  | nil => simp
  | cons pos l ih =>
    rw [List.foldl_cons, ih, List.map_cons]
    simp only [emitAt, List.append_assoc, List.singleton_append]
    rfl

/-- The frame of a SHOW is the bits of `OUT` along the schedule. -/
theorem showLoop_frame (s : State) : (showLoop s).2 = (txSchedule s.inst.n).map (symbolAt s) := by
  rw [showLoop, foldl_emitAt_frame]; rfl

/-- The loop leaves the critical section's registers as they were set at its start. -/
theorem showLoop_state (s : State) :
    (showLoop s).1 =
      { s.enterCritical with
        txPix := (showLoop s).1.txPix
        txByte := (showLoop s).1.txByte
        txBit := (showLoop s).1.txBit
        pin := (showLoop s).1.pin } :=
  foldl_emitAt_state _ _

/-- The schedule grows by one pixel's 24 positions. -/
theorem txSchedule_succ (n : Nat) :
    txSchedule (n + 1) = txSchedule n ++
      ([0, 1, 2].flatMap fun byte => [7, 6, 5, 4, 3, 2, 1, 0].map fun bit => (n, byte, bit)) := by
  simp [txSchedule, List.range_succ]

theorem txSchedule_length (n : Nat) : (txSchedule n).length = 24 * n := by
  induction n with
  | zero => rfl
  | succ n ih => rw [txSchedule_succ, List.length_append, ih]; simp; omega

end Sys2Proof.Machine
end

