-- ==== Sys2Proof/Laws/Exec.lean ====
section
/-!
SUPPORT. What each command whose meaning is a loop can do, said once as one record update: which fields change, and the
closed values of those that have one. The other commands are record updates already.
-/

namespace Sys2Proof.Machine

/-- An answered next state is the one answered. -/
theorem eq_of_next_eq_next {s t : State} (h : (Host.Outcome.next s : Result) = .next t) : t = s := by cases h; rfl

/-- SHOW: one frame logged, the pin low, the critical section left, its scratch registers written. -/
theorem execShowOut_eq (s : State) : execShowOut s = .next { s with
    txLog := s.txLog ++ [(showLoop s).2]
    resp := 0
    pin := false
    txact := false
    ieSaved := s.ie
    txPix := (showLoop s).1.txPix
    txByte := (showLoop s).1.txByte
    txBit := (showLoop s).1.txBit } := by
  rw [execShowOut, showLoop_state]; rfl

/-- A rotation command: `WORK` and the rotation scratch registers. -/
theorem rotate_eq (sc : Scope) (dir : Dir) (cnt : Byte) (s : State) : rotate sc dir cnt s = { s with
    work := (rotate sc dir cnt s).work
    rotLeft := 0
    rotJ := (rotate sc dir cnt s).rotJ
    rotSaved := (rotate sc dir cnt s).rotSaved
    resp := 0 } := by
  rw [rotate, rotLoop_eq]; rfl

/-- The four harvests of RESEED: the lanes, `acc`, and `128 * HARVEST_REPEATS` samples. -/
theorem loadLanes_eq (s : State) : loadLanes s = { s with
    lanes := (loadLanes s).lanes
    acc := (loadLanes s).acc
    entropy := s.entropy.drop (128 * s.inst.harvestRepeats)
    samplesRead := s.samplesRead + 128 * s.inst.harvestRepeats } := by
  have e : 128 * s.inst.harvestRepeats = 32 * s.inst.harvestRepeats + 32 * s.inst.harvestRepeats +
      32 * s.inst.harvestRepeats + 32 * s.inst.harvestRepeats := by omega
  simp only [loadLanes, List.foldl_cons, List.foldl_nil, harvestIntoLane, harvest_eq, State.afterSamples, Lanes.put,
    List.drop_drop, e, Nat.add_assoc]

/-- RESEED: the lanes it keeps, `acc`, `seed_ok`, `resp` and `128 * HARVEST_REPEATS` samples. -/
theorem execReseed_eq (s : State) : execReseed s = .next { s with
    lanes := seededLanes s.inst (loadLanes s).lanes
    acc := (loadLanes s).acc
    seedOk := !Lanes.degenerate (loadLanes s).lanes
    resp := (BitVec.ofBool (!Lanes.degenerate (loadLanes s).lanes)).setWidth 32
    entropy := s.entropy.drop (128 * s.inst.harvestRepeats)
    samplesRead := s.samplesRead + 128 * s.inst.harvestRepeats } := by
  have h : ({ loadLanes s with lanes := seededLanes s.inst (loadLanes s).lanes } : State) = { s with
      lanes := seededLanes s.inst (loadLanes s).lanes
      acc := (loadLanes s).acc
      entropy := s.entropy.drop (128 * s.inst.harvestRepeats)
      samplesRead := s.samplesRead + 128 * s.inst.harvestRepeats } := by rw [loadLanes_eq]
  rw [execReseed, h]; rfl

/-- HARVEST32: `acc`, `resp` and `32 * HARVEST_REPEATS` samples. -/
theorem execHarvest32_eq (s : State) : execHarvest32 s = .next { s with
    acc := s.acc ^^^ (harvestWord 32 0 s).1
    resp := s.acc ^^^ (harvestWord 32 0 s).1
    entropy := s.entropy.drop (32 * s.inst.harvestRepeats)
    samplesRead := s.samplesRead + 32 * s.inst.harvestRepeats } := by
  rw [execHarvest32, harvest_eq]; rfl

end Sys2Proof.Machine
end

