-- ==== Sys2Proof/Laws/Operands.lean ====
section
/-!
SUPPORT. The operand forms of a legal instance: the effective index is a real one, and the index mapper of each scope is
injective and names real indices (spec/20_memory.md R55; spec/42_rotate.md R150 to R153).
-/

namespace Sys2Proof.Machine

/-- A legal instance has pixels. -/
theorem n_pos_of_legal {p : Instance} (h : p.Legal) : 0 < p.n := by
  have h1 : 6 * 5 ≤ p.n := h.1
  omega

/-- The effective index is a real one (R55). -/
theorem effectiveIndex_lt {p : Instance} (h : p.Legal) (idx : BitVec 16) : effectiveIndex p idx < p.n :=
  Nat.mod_lt _ (n_pos_of_legal h)

/-- Two positions of a ring never share an index. -/
theorem ringIndex_injective {lo cnt j k : Nat} (hc : 0 < cnt) (hl : lo + cnt ≤ 5)
    (h : ringIndex lo cnt j = ringIndex lo cnt k) : j = k := by
  simp only [ringIndex, Config.leafLen] at h
  have h1 := Nat.mod_lt j hc
  have h2 := Nat.mod_lt k hc
  have hd : j / cnt = k / cnt := by omega
  have hm : j % cnt = k % cnt := by omega
  rw [← Nat.div_add_mod j cnt, ← Nat.div_add_mod k cnt, hd, hm]

/-- A ring's positions lie in the six leaves. -/
theorem ringIndex_lt {lo cnt j : Nat} (hc : 0 < cnt) (hl : lo + cnt ≤ 5) (h : j < 6 * cnt) : ringIndex lo cnt j < 30 := by
  simp only [ringIndex, Config.leafLen]
  have h1 := Nat.mod_lt j hc
  have h2 : j / cnt < 6 := by rw [Nat.div_lt_iff_lt_mul hc]; exact h
  omega

/-- `idx_xform` is injective. -/
theorem idxXform_injective {p : Instance} (h : p.Legal) (sc : Scope) {j k : Nat}
    (he : idxXform p sc j = idxXform p sc k) : j = k := by
  obtain ⟨-, -, hi, hi', ho, ho', -⟩ := h
  cases sc with
  | inner => exact ringIndex_injective hi hi' he
  | outer => exact ringIndex_injective ho ho' he
  | all => exact he

/-- `idx_xform` names real indices. -/
theorem idxXform_lt {p : Instance} (h : p.Legal) (sc : Scope) {j : Nat} (hj : j < maxl p sc) : idxXform p sc j < p.n := by
  obtain ⟨hn, -, hi, hi', ho, ho', -⟩ := h
  have hn : 30 ≤ p.n := hn
  cases sc with
  | inner => exact Nat.lt_of_lt_of_le (ringIndex_lt hi hi' hj) hn
  | outer => exact Nat.lt_of_lt_of_le (ringIndex_lt ho ho' hj) hn
  | all => exact hj

/-- A derived sequence is not empty. -/
theorem maxl_pos {p : Instance} (h : p.Legal) (sc : Scope) : 0 < maxl p sc := by
  have hn := n_pos_of_legal h
  obtain ⟨-, -, hi, -, ho, -⟩ := h
  cases sc <;> simp only [maxl, Config.leaves] <;> omega

end Sys2Proof.Machine
end

