-- ==== Sys2Proof/Laws/PerInstr.lean ====
section
/-!
SUPPORT. Facts stated of each constructor of Instr: the encoder writes every command into its own row of the opcode map
(spec/30_encoding.md R85).
-/

namespace Sys2Proof.Laws.EncodeRow

-- One theorem at a time: many evaluations at once take too much memory.
set_option Elab.async false

open Sys2Proof

/-- The command's word, masked as its row says, is the row's match. -/
def Statement (i : Instr) : Prop := encode i &&& rowMask i = rowMatch i

/-- A word under the opcode mask is its opcode in place. -/
theorem and_opcode_mask (cw : CommandWord) : cw &&& 0xFF00000000000000#64 = placeOp (fieldOp cw) :=
  (place_extract cw 56 8).symm

/-- A word under the mask of a ROT row is its opcode and its scope in place. -/
theorem and_rot_mask (cw : CommandWord) :
    cw &&& 0xFF00000000030000#64 = placeOp (fieldOp cw) ||| place (fieldScope cw) 16 := by
  have h : (0xFF00000000030000#64 : CommandWord) = 0xFF00000000000000#64 ||| place (BitVec.allOnes 2) 16 := by decide
  rw [h, BitVec.and_or_distrib_left, and_opcode_mask, ← place_extract, fieldScope]

theorem nop : Statement .nop := by unfold Statement; decide

theorem pxrgb (r g b : Byte) : Statement (.pxrgb r g b) := by
  unfold Statement
  simp only [rowMask, and_opcode_mask, fieldOp, encode, placeOp, placeA, BitVec.extractLsb'_or]
  rw [extract_place_self _ _ (by omega), extract_place_of_disjoint _ _ _ _ (by omega)]
  simp only [rowMatch]
  decide

theorem pxint (v : BitVec 24) : Statement (.pxint v) := by
  unfold Statement
  simp only [rowMask, and_opcode_mask, fieldOp, encode, placeOp, BitVec.extractLsb'_or]
  rw [extract_place_self _ _ (by omega), extract_place_of_disjoint _ _ _ _ (by omega)]
  simp only [rowMatch]
  decide

theorem pxpal (cid : Byte) : Statement (.pxpal cid) := by
  unfold Statement
  simp only [rowMask, and_opcode_mask, fieldOp, encode, placeOp, placeF, BitVec.extractLsb'_or]
  rw [extract_place_self _ _ (by omega), extract_place_of_disjoint _ _ _ _ (by omega)]
  simp only [rowMatch]
  decide

theorem scale (p : Pixel) (f : Byte) : Statement (.scale p f) := by
  unfold Statement
  simp only [rowMask, and_opcode_mask, fieldOp, encode, placeOp, placeA, placeF, BitVec.extractLsb'_or]
  rw [extract_place_self _ _ (by omega), extract_place_of_disjoint _ _ _ _ (by omega),
    extract_place_of_disjoint _ _ _ _ (by omega)]
  simp only [rowMatch]
  decide

theorem add (a b : Pixel) : Statement (.add a b) := by
  unfold Statement
  simp only [rowMask, and_opcode_mask, fieldOp, encode, placeOp, placeA, placeB, BitVec.extractLsb'_or]
  rw [extract_place_self _ _ (by omega), extract_place_of_disjoint _ _ _ _ (by omega),
    extract_place_of_disjoint _ _ _ _ (by omega)]
  simp only [rowMatch]
  decide

theorem mix (a b : Pixel) (f : Byte) : Statement (.mix a b f) := by
  unfold Statement
  simp only [rowMask, and_opcode_mask, fieldOp, encode, placeOp, placeA, placeB, placeF, BitVec.extractLsb'_or]
  rw [extract_place_self _ _ (by omega), extract_place_of_disjoint _ _ _ _ (by omega),
    extract_place_of_disjoint _ _ _ _ (by omega), extract_place_of_disjoint _ _ _ _ (by omega)]
  simp only [rowMatch]
  decide

theorem setPx (idx : BitVec 16) (p : Pixel) : Statement (.setPx idx p) := by
  unfold Statement
  simp only [rowMask, and_opcode_mask, fieldOp, encode, placeOp, placeA, placeIdx, BitVec.extractLsb'_or]
  rw [extract_place_self _ _ (by omega), extract_place_of_disjoint _ _ _ _ (by omega),
    extract_place_of_disjoint _ _ _ _ (by omega)]
  simp only [rowMatch]
  decide

theorem getPx (idx : BitVec 16) : Statement (.getPx idx) := by
  unfold Statement
  simp only [rowMask, and_opcode_mask, fieldOp, encode, placeOp, placeIdx, BitVec.extractLsb'_or]
  rw [extract_place_self _ _ (by omega), extract_place_of_disjoint _ _ _ _ (by omega)]
  simp only [rowMatch]
  decide

theorem clrPx (idx : BitVec 16) : Statement (.clrPx idx) := by
  unfold Statement
  simp only [rowMask, and_opcode_mask, fieldOp, encode, placeOp, placeIdx, BitVec.extractLsb'_or]
  rw [extract_place_self _ _ (by omega), extract_place_of_disjoint _ _ _ _ (by omega)]
  simp only [rowMatch]
  decide

theorem clrAll : Statement .clrAll := by unfold Statement; decide

theorem setAll (p : Pixel) : Statement (.setAll p) := by
  unfold Statement
  simp only [rowMask, and_opcode_mask, fieldOp, encode, placeOp, placeA, BitVec.extractLsb'_or]
  rw [extract_place_self _ _ (by omega), extract_place_of_disjoint _ _ _ _ (by omega)]
  simp only [rowMatch]
  decide

theorem scaleAll (f : Byte) : Statement (.scaleAll f) := by
  unfold Statement
  simp only [rowMask, and_opcode_mask, fieldOp, encode, placeOp, placeF, BitVec.extractLsb'_or]
  rw [extract_place_self _ _ (by omega), extract_place_of_disjoint _ _ _ _ (by omega)]
  simp only [rowMatch]
  decide

theorem copyOut (mask : Word) (f : Byte) : Statement (.copyOut mask f) := by
  unfold Statement
  simp only [rowMask, and_opcode_mask, fieldOp, encode, placeOp, placeF, BitVec.extractLsb'_or]
  rw [extract_place_self _ _ (by omega), extract_place_of_disjoint _ _ _ _ (by omega),
    extract_place_of_disjoint _ _ _ _ (by omega)]
  simp only [rowMatch]
  decide

theorem rotInner (dir : Dir) (cnt : Byte) : Statement (.rotInner dir cnt) := by
  unfold Statement
  simp only [rowMask, and_rot_mask, fieldOp, fieldScope, encode, encodeRot, placeOp, placeF, BitVec.extractLsb'_or]
  rw [extract_place_self _ _ (by omega), extract_place_of_disjoint _ _ _ _ (by omega),
    extract_place_of_disjoint _ _ _ _ (by omega), extract_place_of_disjoint _ _ _ _ (by omega),
    extract_place_of_disjoint _ _ _ _ (by omega), extract_place_self _ _ (by omega),
    extract_place_of_disjoint _ _ _ _ (by omega), extract_place_of_disjoint _ _ _ _ (by omega)]
  simp only [rowMatch]
  decide

theorem rotOuter (dir : Dir) (cnt : Byte) : Statement (.rotOuter dir cnt) := by
  unfold Statement
  simp only [rowMask, and_rot_mask, fieldOp, fieldScope, encode, encodeRot, placeOp, placeF, BitVec.extractLsb'_or]
  rw [extract_place_self _ _ (by omega), extract_place_of_disjoint _ _ _ _ (by omega),
    extract_place_of_disjoint _ _ _ _ (by omega), extract_place_of_disjoint _ _ _ _ (by omega),
    extract_place_of_disjoint _ _ _ _ (by omega), extract_place_self _ _ (by omega),
    extract_place_of_disjoint _ _ _ _ (by omega), extract_place_of_disjoint _ _ _ _ (by omega)]
  simp only [rowMatch]
  decide

theorem rotAll (dir : Dir) (cnt : Byte) : Statement (.rotAll dir cnt) := by
  unfold Statement
  simp only [rowMask, and_rot_mask, fieldOp, fieldScope, encode, encodeRot, placeOp, placeF, BitVec.extractLsb'_or]
  rw [extract_place_self _ _ (by omega), extract_place_of_disjoint _ _ _ _ (by omega),
    extract_place_of_disjoint _ _ _ _ (by omega), extract_place_of_disjoint _ _ _ _ (by omega),
    extract_place_of_disjoint _ _ _ _ (by omega), extract_place_self _ _ (by omega),
    extract_place_of_disjoint _ _ _ _ (by omega), extract_place_of_disjoint _ _ _ _ (by omega)]
  simp only [rowMatch]
  decide

theorem showOut : Statement .showOut := by unfold Statement; decide

theorem next32 : Statement .next32 := by unfold Statement; decide

theorem reseed : Statement .reseed := by unfold Statement; decide

theorem harvest32 : Statement .harvest32 := by unfold Statement; decide

end Sys2Proof.Laws.EncodeRow
end

