-- ==== Sys2Proof/Laws/PixelAlu.lean ====
section
/-!
SUPPORT. The pixel arithmetic as arithmetic on numbers: the narrowing to 8 bits never wraps (spec/40_pixel_alu.md R117).
-/

namespace Sys2Proof.Machine

/-- A pixel result as a number. -/
theorem pixelWord_toNat (p : Pixel) :
    (pixelWord p).toNat = p.r.toNat * 65536 + p.g.toNat * 256 + p.b.toNat := by
  have h := p.pack.isLt
  rw [pixelWord, BitVec.toNat_setWidth, Nat.mod_eq_of_lt (by omega), Pixel.pack_toNat]

/-- `scale_ch` as a number. -/
theorem scaleCh_toNat (c f : Byte) : (scaleCh c f).toNat = c.toNat * f.toNat / 256 := by
  have hc := c.isLt
  have hf := f.isLt
  rw [scaleCh, BitVec.toNat_ofNat, Nat.shiftRight_eq_div_pow, Nat.mod_eq_of_lt]
  rw [Nat.div_lt_iff_lt_mul (by norm_num)]
  nlinarith

/-- `add_ch` as a number. -/
theorem addCh_toNat (x y : Byte) : (addCh x y).toNat = min 255 (x.toNat + y.toNat) := by
  rw [addCh, BitVec.toNat_ofNat, Nat.mod_eq_of_lt]; omega

/-- `mix_ch` as a number. -/
theorem mixCh_toNat (x y f : Byte) :
    (mixCh x y f).toNat = (x.toNat * (255 - f.toNat) + y.toNat * f.toNat) / 256 := by
  have hx := x.isLt
  have hy := y.isLt
  have hf := f.isLt
  rw [mixCh, BitVec.toNat_ofNat, Nat.shiftRight_eq_div_pow, Nat.mod_eq_of_lt]
  rw [Nat.div_lt_iff_lt_mul (by norm_num)]
  have h1 : x.toNat * (255 - f.toNat) ≤ 255 * (255 - f.toNat) := Nat.mul_le_mul_right _ (by omega)
  have h2 : y.toNat * f.toNat ≤ 255 * f.toNat := Nat.mul_le_mul_right _ (by omega)
  omega

end Sys2Proof.Machine
end

