-- ==== Sys2Proof/Tests/Slice0.lean ====
section
/-!
SUPPORT. Tests and witnesses. Expected values are the spec's (spec/30_encoding.md R90, spec/95_test_vectors.md), named in
each docstring. Every machine test is one step from a small state. A witness shows a concrete state and operands that meet
the hypotheses of one statement of Sys2Proof/Certificates/Slice0/Obligations.lean.
-/

namespace Sys2Proof.Tests

-- One theorem at a time: many kernel evaluations at once take too much memory.
set_option Elab.async false

open Sys2Proof Sys2Proof.Machine

/-! ### Helpers -/

/-- An instance with `N` = `n`, `HARVEST_REPEATS` = `reps`, the default geometry, and the durations of V6.8. -/
def inst (n reps : Nat) (exact : Bool) : Instance :=
  { Config.standard with n := n, harvestRepeats := reps, mixExactEnds := exact, timing := ⟨2, 4, 6, 40⟩ }

/-- "`WORK[i] = i`" (95_test_vectors.md, Conventions). -/
def numbered (n : Nat) : Memory := Memory.ofBytes n fun a => BitVec.ofNat 8 (a / 3)

/-- Every pixel the same. -/
def uniform (n : Nat) (p : Pixel) : Memory :=
  Memory.ofBytes n fun a => match a % 3 with
    | 0 => p.g
    | 1 => p.r
    | _ => p.b

/-- Right after reset, with `WORK[i] = i`, `OUT` all black, `ie` = 1, no other value changed. -/
def start (n : Nat) : State :=
  { State.resetOf (inst n 1 false) with work := numbered n, out := uniform n Pixel.black, ie := true }

/-- The same with a sample stream and `HARVEST_REPEATS` = `reps`. -/
def withSamples (reps : Nat) (l : List Sample) : State := { start 30 with inst := inst 30 reps false, entropy := l }

/-- One step on a command word, one field of the next state. -/
def after {α : Type} (get : State → α) (cw : CommandWord) (s : State) : Option α :=
  match step (s.present cw) with
  | .next t => some (get t)
  | .fault _ => none
  | .refused _ => none

/-- The numbers some pixels of `WORK` hold in their red channels. -/
def reds (l : List Nat) (s : State) : List Nat := l.map fun i => (Memory.pixel s.work i).r.toNat

/-- Pixels of `WORK` and `OUT`. -/
def workPixel (i : Nat) (s : State) : Pixel := Memory.pixel s.work i
def outPixel (i : Nat) (s : State) : Pixel := Memory.pixel s.out i

/-! ### Encoding -/

/-- V2.1, R85, R113: words of the constructors, written from the fields of R81. -/
theorem test_decode_constructors :
    decode 0x10FF800100000000 = .ok (.pxrgb 255 128 1) ∧ decode 0x1112345600000000 = .ok (.pxint 0x123456) ∧
    decode 0x12000000000000C8 = .ok (.pxpal 200) := by decide

/-- V2.3, V2.4, V1.1. -/
theorem test_decode_pixel_arithmetic :
    decode 0x13FF80C800000064 = .ok (.scale ⟨0xFF, 0x80, 0xC8⟩ 100) ∧
    decode 0x14FF800101807F00 = .ok (.add ⟨0xFF, 0x80, 0x01⟩ ⟨0x01, 0x80, 0x7F⟩) ∧
    decode 0x15FF00000000FF80 = .ok (.mix ⟨0xFF, 0, 0⟩ ⟨0, 0, 0xFF⟩ 128) := by decide

/-- V1.2, V3.1, V3.3, V3.4, V3.5, V3.6, V1.3, V1.8. -/
theorem test_decode_pixel_store :
    decode 0x2000FF00001F0000 = .ok (.setPx 31 ⟨0, 0xFF, 0⟩) ∧ decode 0x21000000BC980000 = .ok (.getPx 48280) ∧
    decode 0x22000000003D0000 = .ok (.clrPx 61) ∧ decode 0x2300000000000000 = .ok .clrAll ∧
    decode 0x24F8D8AA00000000 = .ok (.setAll ⟨0xF8, 0xD8, 0xAA⟩) ∧ decode 0x2500000000000080 = .ok (.scaleAll 128) ∧
    decode 0x2600003FFFFFEF80 = .ok (.copyOut 0x3FFFFFEF 128) ∧ decode 0x0000000000000000 = .ok .nop := by decide

/-- V4.2, V4.6, V1.4. -/
theorem test_decode_rotation :
    decode 0x3000000000000101 = .ok (.rotInner .down 1) ∧ decode 0x30000000000100FF = .ok (.rotOuter .up 255) ∧
    decode 0x3000000000020103 = .ok (.rotAll .down 3) := by decide

/-- V6.1, V5.1, V5.9, V5.6. -/
theorem test_decode_serial_and_random :
    decode 0x4000000000000000 = .ok .showOut ∧ decode 0x5000000000000000 = .ok .next32 ∧
    decode 0x5100000000000000 = .ok .reseed ∧ decode 0x5200000000000000 = .ok .harvest32 := by decide

/-- V1.5: unused bits are ignored. -/
theorem test_decode_unused_bits :
    decode 0x23FFFFFFFFFFFFFF = .ok .clrAll ∧ decode 0x40123456789ABCDE = .ok .showOut ∧
    decode 0x21FFFFFF0005FFFF = .ok (.getPx 5) ∧ decode 0x20AABBCC0007FFFF = .ok (.setPx 7 ⟨0xAA, 0xBB, 0xCC⟩) ∧
    decode 0x30FFFFFFFFFDFE03 = .ok (.rotOuter .up 3) ∧ decode 0x26FFFF0000000180 = .ok (.copyOut 1 128) := by decide

/-- V1.6, V1.7: reserved words are rejected by name. -/
theorem test_decode_reserved :
    decode 0x0100000000000000 = .error (.opcode 0x01) ∧ decode 0x1600000000000000 = .error (.opcode 0x16) ∧
    decode 0x2712345600010000 = .error (.opcode 0x27) ∧ decode 0x3100000000000001 = .error (.opcode 0x31) ∧
    decode 0x5300000000000000 = .error (.opcode 0x53) ∧ decode 0xFF00000000000000 = .error (.opcode 0xFF) ∧
    decode 0x3000000000030005 = .error .scope3 := by decide

/-- R90 and the vectors above, the other way. -/
theorem test_encode :
    encode (.setPx 31 ⟨0, 0xFF, 0⟩) = 0x2000FF00001F0000 ∧ encode (.copyOut 0x3FFFFFEF 128) = 0x2600003FFFFFEF80 ∧
    encode (.rotAll .down 3) = 0x3000000000020103 ∧ encode (.add ⟨0xFF, 0x80, 1⟩ ⟨1, 0x80, 0x7F⟩) = 0x14FF800101807F00 ∧
    encode (.getPx 61) = 0x21000000003D0000 ∧ encode .harvest32 = 0x5200000000000000 := by decide

/-- The host's reading of a table row's word. -/
theorem test_decode_table_word :
    decodeTableWord 64 0x3000000000020103 = some (.rotAll .down 3) ∧ decodeTableWord 64 0x3000000000030005 = none := by
  decide

/-! ### Command lines -/

/-- R81, R84: an operand one past its field's range, for each check; the largest value inside it is accepted. -/
theorem test_wf_byte : (Source.scaleAll 256).wf = false ∧ (Source.scaleAll 255).wf = true := by decide
theorem test_wf_byte_of_each_line :
    (Source.pxrgb 256 0 0).wf = false ∧ (Source.pxrgb 0 256 0).wf = false ∧ (Source.pxrgb 0 0 256).wf = false ∧
    (Source.pxpal 256).wf = false ∧ (Source.scale 0 256).wf = false ∧ (Source.mix 0 0 256).wf = false ∧
    (Source.copyOut 0 256).wf = false ∧ (Source.rotInner .up 256).wf = false ∧ (Source.rotOuter .up 256).wf = false ∧
    (Source.rotAll .up 256).wf = false ∧ (Source.copyAll 256).wf = false ∧ (Source.frame 0 256).wf = false ∧
    (Source.rot .all .up 256).wf = false := by decide
theorem test_wf_pixel :
    (Source.pxint 0x1000000).wf = false ∧ (Source.scale 0x1000000 0).wf = false ∧ (Source.add 0x1000000 0).wf = false ∧
    (Source.add 0 0x1000000).wf = false ∧ (Source.mix 0x1000000 0 0).wf = false ∧ (Source.mix 0 0x1000000 0).wf = false ∧
    (Source.setPx 0 0x1000000).wf = false ∧ (Source.setAll 0x1000000).wf = false ∧ (Source.setAll 0xFFFFFF).wf = true := by
  decide
theorem test_wf_index :
    (Source.setPx 65536 0).wf = false ∧ (Source.getPx 65536).wf = false ∧ (Source.clrPx 65536).wf = false ∧
    (Source.getPx 65535).wf = true := by decide
theorem test_wf_mask :
    (Source.copyOut 0x100000000 0).wf = false ∧ (Source.frame 0x100000000 0).wf = false ∧
    (Source.copyOut 0xFFFFFFFF 0).wf = true := by decide

/-- An ill-formed line gives no commands. -/
theorem test_assemble_refuses : Source.assemble 30 (.getPx 65536) = none := by decide

/-- V1.9, `N` = 30, 31, 32. -/
theorem test_pseudo_words :
    Source.words 30 (.copyAll 200) = some [0x2600003FFFFFFFC8] ∧ Source.words 30 .blank = some [0x2600000000000000] ∧
    Source.words 30 (.frame 0x3FFFFFFF 255) = some [0x2600003FFFFFFFFF, 0x4000000000000000] ∧
    Source.words 31 (.copyAll 200) = some [0x2600007FFFFFFFC8] ∧
    Source.words 32 (.copyAll 200) = some [0x260000FFFFFFFFC8] := by decide

/-- R88: text to words; a malformed line and an operand out of range give none. -/
theorem test_text :
    textWords 30 "GET 61 ; wraps".toList = some [0x21000000003D0000] ∧ textWords 30 "GET 65536".toList = none ∧
    textWords 30 "SET 31".toList = none ∧ textWords 30 "SHOW\nNOP".toList = some [0x4000000000000000, 0] := by
  decide +kernel

/-- R88: a decimal and a hexadecimal number, a pixel, a word. -/
theorem test_operand_text :
    readOperand ['1', '2', '8'] = some (.num 128) ∧ readOperand ['0', 'x', '3', 'F'] = some (.num 63) ∧
    readOperand ['#', '0', '0', 'F', 'F', '0', '1'] = some (.pixel 0x00FF01) ∧
    readOperand ['#', '0', '0', 'F', 'F', '0'] = none ∧ readOperand ['D', 'O', 'W', 'N'] = some (.dir .down) := by
  decide +kernel

/-! ### Pixel arithmetic -/

/-- V2.1. -/
theorem test_pxrgb : after State.resp 0x10FF800100000000 (start 30) = some 0x00FF8001 := by decide +kernel
theorem test_pxint : after State.resp 0x1112345600000000 (start 30) = some 0x00123456 := by decide +kernel

/-- R113: the palette is total and its pixel is packed into the low 24 bits. -/
theorem test_pxpal : after State.resp 0x12000000000000C8 (start 30) = some (pixelWord (Config.palette 200)) := rfl

/-- V2.3. -/
theorem test_scale : after State.resp 0x134DC8FE000000C8 (start 30) = some 0x003C9CC6 := by decide +kernel
theorem test_scale_by_255 : after State.resp 0x13010203000000FF (start 30) = some 0x00000102 := by decide +kernel

/-- V2.4. -/
theorem test_add_clamps : after State.resp 0x14FF800101807F00 (start 30) = some 0x00FFFF80 := by decide +kernel
theorem test_add_exact_255 : after State.resp 0x14FE010001FEFF00 (start 30) = some 0x00FFFFFF := by decide +kernel

/-- V2.5, V2.6. -/
theorem test_mix : after State.resp 0x150A141EC8C8C8C8 (start 30) = some 0x009EA0A2 := by decide +kernel
theorem test_mix_exact_ends :
    after State.resp 0x15FF00000000FF00 { start 30 with inst := inst 30 1 true } = some 0x00FF0000 ∧
    after State.resp 0x15FF00000000FFFF { start 30 with inst := inst 30 1 true } = some 0x000000FF ∧
    after State.resp 0x15FF00000000FF01 { start 30 with inst := inst 30 1 true } = some 0x00FD0000 ∧
    after State.resp 0x15FF00000000FF00 (start 30) = some 0x00FE0000 := by decide +kernel

/-! ### Pixel stores -/

/-- V1.8. -/
theorem test_nop : after State.resp 0x0000000000000000 { start 30 with resp := 0xC6F8D8AA } = some 0 := by decide +kernel

/-- V1.6: a reserved word does what NOP does. -/
theorem test_reserved_is_nop :
    after State.resp 0x2712345600010000 { start 30 with resp := 0xC6F8D8AA } = some 0 ∧
    after (reds [0, 1, 29]) 0x3000000000030005 (start 30) = some [0, 1, 29] := by decide +kernel

/-- V3.2. -/
theorem test_set_wraps :
    after (workPixel 1) 0x2000FF00001F0000 (start 30) = some ⟨0, 0xFF, 0⟩ ∧
    after (workPixel 2) 0x2000FF00001F0000 (start 30) = some ⟨2, 2, 2⟩ := by decide +kernel

/-- R52: green, red, blue at bytes 3i, 3i+1, 3i+2. -/
theorem test_set_byte_order :
    after (fun s => Memory.readBytes s.work 3 3) 0x20A1B2C300010000 (start 30) = some [0xB2, 0xA1, 0xC3] := by
  decide +kernel

/-- V3.1. -/
theorem test_get_wraps :
    after State.resp 0x21000000FFFF0000 (start 30) = some 0x000F0F0F ∧
    after State.resp 0x21000000FFFF0000 (start 31) = some 0x00010101 ∧
    after State.resp 0x21000000BC980000 (start 32) = some 0x00181818 := by decide +kernel

/-- V3.3. -/
theorem test_clr :
    after (workPixel 5) 0x2200000000230000 (start 30) = some Pixel.black ∧
    after (workPixel 6) 0x2200000000230000 (start 30) = some ⟨6, 6, 6⟩ := by decide +kernel

/-- V3.4. -/
theorem test_clrall : after (workPixel 2) 0x2300000000000000 (start 30) = some Pixel.black := by decide +kernel

/-- V3.5. -/
theorem test_setall : after (workPixel 2) 0x24FFFFFF00000000 (start 31) = some ⟨255, 255, 255⟩ := by decide +kernel

/-- V3.6. -/
theorem test_scaleall :
    after (workPixel 7) 0x2500000000000080 { start 30 with work := uniform 30 ⟨0xFF, 0x01, 0xC8⟩ } =
      some ⟨0x7F, 0x00, 0x64⟩ := by decide +kernel

/-- V3.7: mask bits 30 and 31 are ignored for `N` = 30; a pixel whose bit is clear is black. -/
theorem test_copyout_mask :
    after (fun s => (outPixel 0 s, outPixel 1 s)) 0x260000C0000001FF
        { start 30 with work := uniform 30 ⟨0x12, 0x34, 0x56⟩ } =
      some (⟨0x11, 0x33, 0x55⟩, Pixel.black) := by decide +kernel

/-- V3.8: `N` = 31, bit 30 clear. -/
theorem test_copyout_n31 :
    after (fun s => (outPixel 0 s, outPixel 30 s)) 0x2600003FFFFFFF80
        { start 31 with work := uniform 31 ⟨255, 255, 255⟩ } =
      some (⟨0x7F, 0x7F, 0x7F⟩, Pixel.black) := by decide +kernel

/-! ### Rotation -/

/-- V4.1, V4.2: the numbers at 0, 1, 5. -/
theorem test_rot_inner_up : after (reds [0, 1, 5]) 0x3000000000000001 (start 30) = some [25, 1, 0] := by
  decide +kernel
theorem test_rot_inner_down : after (reds [0, 1, 5]) 0x3000000000000101 (start 30) = some [5, 1, 10] := by
  decide +kernel

/-- V4.4, V4.5: the numbers at 1, 4, 6 and at 1, 4, 3. -/
theorem test_rot_outer_up : after (reds [1, 4, 6]) 0x3000000000010001 (start 30) = some [28, 4, 3] := by
  decide +kernel
theorem test_rot_outer_down : after (reds [1, 4, 3]) 0x3000000000010101 (start 30) = some [2, 4, 6] := by
  decide +kernel

/-- P4 step 11 (WORK[i] = (i + 1) mod 30), V4.11: scope ALL; index 30 takes part for `N` = 31. -/
theorem test_rot_all_down : after (reds [0, 4]) 0x3000000000020101 (start 30) = some [1, 5] := by decide +kernel
theorem test_rot_all_n31 : after (reds [0, 1]) 0x3000000000020001 (start 31) = some [30, 0] := by decide +kernel

/-! ### Serial driver -/

/-- V6.1: the first 24 symbols of the frame. -/
theorem test_show_frame :
    after (fun s => s.txLog.map (List.take 24)) 0x4000000000000000
        { start 30 with out := Memory.setPixel (uniform 30 Pixel.black) 0 ⟨0x12, 0x34, 0x56⟩ } =
      some [[false, false, true, true, false, true, false, false, false, false, false, true, false, false, true, false,
        false, true, false, true, false, true, true, false]] := by decide +kernel

/-- V6.6: the host's enable is restored, for either value. -/
theorem test_show_interrupt_enable :
    after (fun s => (s.ie, s.txact, s.pin)) 0x4000000000000000 (start 30) = some (true, false, false) ∧
    after (fun s => (s.ie, s.txact, s.pin)) 0x4000000000000000 { start 30 with ie := false } =
      some (false, false, false) := by decide +kernel

/-- V6.8: the symbols 0 1 1 0 as pin levels. -/
theorem test_waveform :
    frameWave ⟨2, 4, 6, 40⟩ [false, true, true, false] =
      [true, true, false, false, false, false, true, true, true, true, false, false,
       true, true, true, true, false, false, true, true, false, false, false, false] := by decide

/-! ### Random source -/

/-- V5.1, row 1, from reset; V5.1, row 6. -/
theorem test_next32_from_reset :
    after (fun s => (s.lanes, s.resp)) 0x5000000000000000 State.reset =
      some (⟨0xC0E00061, 0x0000C0E0, 0x00181830, 0x0600001B⟩, 0xC6F8D8AA) := by decide +kernel
theorem test_next32_sixth :
    after State.resp 0x5000000000000000
      { start 30 with lanes := ⟨0x987DF7CB, 0x00C0E000, 0x031E1E0C, 0x18001B6C⟩ } = some 0x504D3E0A := by decide +kernel

/-- V5.2, rows 80 and FFFFFFFF. -/
theorem test_lane_steps :
    lfsr113Step 0 0x80 = 0x02000001 ∧ lfsr113Step 1 0x80 = 0x00000200 ∧ lfsr113Step 2 0x80 = 0x00004000 ∧
    lfsr113Step 3 0x80 = 0x00100000 ∧ lfsr113Step 0 0xFFFFFFFF = 0xFFF80000 ∧ lfsr113Step 1 0xFFFFFFFF = 0xFFFFFFE0 ∧
    lfsr113Step 2 0xFFFFFFFF = 0xFFFFF800 ∧ lfsr113Step 3 0xFFFFFFFF = 0xFFF00000 := by decide

/-- V5.5. -/
theorem test_fold16 :
    fold16 0x0000 = false ∧ fold16 0x0001 = true ∧ fold16 0x0003 = false ∧ fold16 0x0007 = true ∧
    fold16 0x0800 = true ∧ fold16 0x0FFF = false ∧ fold16 0x0ABC = true ∧ fold16 0x0123 = false := by decide

/-- V5.6, the first call: the word, and the samples used. -/
theorem test_harvest32 :
    after (fun s => (s.acc, s.resp, s.samplesRead, s.entropy)) 0x5200000000000000
        (withSamples 1 ((List.range 33).map (BitVec.ofNat 12))) =
      some (0x69969669, 0x69969669, 32, [32]) := by decide +kernel

/-- V5.7: two samples a bit. -/
theorem test_harvest32_two_repeats :
    after State.resp 0x5200000000000000 (withSamples 2 ((List.range 64).map (BitVec.ofNat 12))) = some 0xFFFFFFFF := by
  decide +kernel

/-- V5.9, row 2. -/
theorem test_reseed :
    after (fun s => (s.lanes, s.acc, s.seedOk, s.resp, s.samplesRead)) 0x5100000000000000
        (withSamples 1 ((List.range 128).map fun n => BitVec.ofNat 12 ((37 * n + 11) % 4096))) =
      some (⟨0x96A331FC, 0xA16EA5B7, 0xFFAEEAB6, 0x4C454E65⟩, 0x4C454E65, true, 1, 128) := by decide +kernel

/-- V5.10: the failing reseed. -/
theorem test_reseed_fails :
    after (fun s => (s.lanes, s.acc, s.seedOk, s.resp)) 0x5100000000000000
        { withSamples 1 (List.replicate 128 0x007) with acc := 0x69969669 } =
      some (⟨0x3039, 0x3039, 0x3039, 0x3039⟩, 0x69969669, false, 0) := by decide +kernel

/-! ### Host moves -/

/-- R31, R223, R242: the host sets `ie`; with no move nothing happens. -/
theorem test_host_moves :
    step { start 30 with port := [.setIe false] } = .next { start 30 with ie := false } ∧
    step (start 30) = .next (start 30) := ⟨rfl, rfl⟩

/-! ### Witnesses: the hypotheses of each statement, met together -/

/-- `State.Inv` of every statement that has it, at `N` = 30, 31, 32. -/
theorem witness_inv : (start 30).Inv ∧ (start 31).Inv ∧ (start 32).Inv := by
  refine ⟨⟨by decide, ?_, ?_, rfl, rfl⟩, ⟨by decide, ?_, ?_, rfl, rfl⟩, ⟨by decide, ?_, ?_, rfl, rfl⟩⟩ <;>
  exact Memory.wf_ofBytes _ _

/-- UnusedBitsAreIgnored: the first and third clause with unused bits set, the last clause at opcode 0x30. -/
theorem witness_unused_bits :
    (decode 0x2100000000050000 = .ok (.getPx 5) ∧
      (0x21FFFFFF0005FFFF : CommandWord) &&& usedBits (.getPx 5) = 0x2100000000050000 &&& usedBits (.getPx 5)) ∧
    decode 0x21FFFFFF0005FFFF = .ok (.getPx 5) ∧
    (decode 0x3000000000010002 = .ok (.rotOuter .up 2) ∧ fieldOp 0x30FFFFFFFFFDFE03 = fieldOp 0x3000000000010002 ∧
      fieldOp 0x3000000000010002 = 0x30 ∧ fieldScope 0x30FFFFFFFFFDFE03 = fieldScope 0x3000000000010002) ∧
    (decode 0x2300000000000000 = .ok .clrAll ∧ fieldOp 0x23FFFFFFFFFFFFFF = fieldOp 0x2300000000000000 ∧
      fieldOp 0x2300000000000000 ≠ 0x30) := by decide

/-- ReservedWordsExecuteAsNop: a reserved opcode and the reserved scope on the port. -/
theorem witness_reserved :
    ((start 30).present 0x2712345600010000).port = [.command 0x2712345600010000] ∧
    (∃ e, decode 0x2712345600010000 = .error e) ∧
    ((start 30).present 0x3000000000030005).port = [.command 0x3000000000030005] ∧
    (∃ e, decode 0x3000000000030005 = .error e) := ⟨rfl, ⟨.opcode 0x27, by decide⟩, rfl, ⟨.scope3, by decide⟩⟩

/-- StepRunsTheDecodedCommand, PresentedWordRunsNext, HostMovesOtherThanCommands. -/
theorem witness_step :
    ((start 30).present 0x4000000000000000).port = [.command 0x4000000000000000] ∧
    decode 0x4000000000000000 = .ok .showOut ∧ decodeTableWord 64 0x4000000000000000 = some .showOut ∧
    (start 30).port = [] ∧ ({ start 30 with port := [.setIe false] } : State).port = [.setIe false] :=
  ⟨rfl, by decide, by decide, rfl, rfl⟩

/-- PseudoCommandsExpand: each clause at the ends of its ranges. -/
theorem witness_pseudo :
    (30 ≤ 30 ∧ 32 ≤ 32 ∧ 0 < 256 ∧ 255 < 256) ∧ 2 ^ 32 - 1 < 2 ^ 32 := by decide

/-- AssembledWordsDecode: a plain line and a pseudo-command, at the ends of their ranges. -/
theorem witness_assembled :
    (Source.setPx 65535 0xFFFFFF).wf = true ∧ (Source.frame 0xFFFFFFFF 255).wf = true := by decide

/-- AssemblerTextGivesTheWords: a line without a comment. -/
theorem witness_text : ';' ∉ ['S', 'H', 'O', 'W'] := by decide

/-- PxintRespondsWithItsInteger's last clause. -/
theorem witness_pxint_zero : (0x000000 : BitVec 24) = 0 := rfl

/-- MixInterpolates: each clause. -/
theorem witness_mix :
    ((inst 30 1 true).mixExactEnds = true ∧ (0 : Byte) = 0 ∧ (255 : Byte) = 255) ∧
    (¬ ((inst 30 1 true).mixExactEnds = true ∧ ((1 : Byte) = 0 ∨ (1 : Byte) = 255))) ∧
    (¬ ((inst 30 1 false).mixExactEnds = true ∧ ((0 : Byte) = 0 ∨ (0 : Byte) = 255))) ∧
    (inst 30 1 false).mixExactEnds = false := by decide

/-- SetWritesOnePixel, ClrBlacksOnePixel: bytes below, inside and above the pixel `61 mod 30`. -/
theorem witness_one_pixel :
    (start 30).Inv ∧ 2 < 3 * (61 % 30) ∧ (3 * (61 % 30) ≤ 3 ∧ 5 < 3 * (61 % 30) + 3) ∧ 3 * (61 % 30) + 3 ≤ 6 :=
  ⟨witness_inv.1, by decide, by decide, by decide⟩

/-- GetAfterSet: an index that wraps to the same pixel and one that does not. -/
theorem witness_get_after_set :
    (start 30).Inv ∧ (65527 : BitVec 16).toNat % 30 = (7 : BitVec 16).toNat % 30 ∧
    (65535 : BitVec 16).toNat % 30 ≠ (7 : BitVec 16).toNat % 30 := ⟨witness_inv.1, by decide, by decide⟩

/-- IndexWrapsModuloN: the largest `i + k*N` of the operand. -/
theorem witness_index : (start 30).Inv ∧ 15 + 2184 * (start 30).inst.n ≤ 65535 := ⟨witness_inv.1, by decide⟩

/-- CopyOutPublishesUnderTheMask: a set and a clear bit at pixels 0 and 29; another mask equal on the low 30 bits, and
another `OUT`. -/
theorem witness_copyout :
    (start 30).Inv ∧ (0x00000001 : Word).getLsbD 0 = true ∧ (0x00000001 : Word).getLsbD 29 = false ∧ 29 < 30 ∧
    89 < 3 * (start 30).inst.n ∧ Memory.wf 30 (numbered 30) ∧
    (∀ i, i < 30 → (0xC0000001 : Word).getLsbD i = (0x00000001 : Word).getLsbD i) :=
  ⟨witness_inv.1, by decide, by decide, by decide, by decide, Memory.wf_ofBytes _ _, by decide⟩

/-- CopyOutOfNothingIsBlack: brightness 0; a mask with only bits from `N` up. -/
theorem witness_copyout_nothing :
    (start 30).Inv ∧ ((0 : Byte) = 0 ∨ ∀ i, i < (start 30).inst.n → (0xFFFFFFFF : Word).getLsbD i = false) ∧
    ((255 : Byte) = 0 ∨ ∀ i, i < (start 30).inst.n → (0xC0000000 : Word).getLsbD i = false) :=
  ⟨witness_inv.1, .inl rfl, .inr (by decide)⟩

/-- IdxXformIsABijectionOntoItsScope: legal instances at the ends of the geometry's ranges. -/
theorem witness_legal :
    (inst 30 1 false).Legal ∧ ({ inst 32 1 false with innerLo := 4, innerCnt := 1, outerLo := 0, outerCnt := 5 }).Legal := by
  decide

/-- SingleStepShiftsByOne: the last position of each sequence, and an index outside two of them. -/
theorem witness_single_step :
    (start 30).Inv ∧ 5 < maxl (start 30).inst .inner ∧ 17 < maxl (start 30).inst .outer ∧
    29 < maxl (start 30).inst .all ∧ 29 ∉ derivedSeq (start 30).inst .outer ∧ 1 ∉ derivedSeq (start 30).inst .inner :=
  ⟨witness_inv.1, by decide, by decide, by decide, by decide, by decide⟩

/-- RotationNetEffect, RotationFrame, RotationKeepsTheMultiset: the three commands; a byte outside a sequence. -/
theorem witness_rotation :
    (start 30).Inv ∧
    (∀ i sc, (i, sc) ∈ ([(.rotInner .up 255, .inner), (.rotOuter .down 1, .outer), (.rotAll .up 0, .all)] :
        List (Instr × Scope)) →
      ∃ dir cnt, i = .rotInner dir cnt ∧ sc = .inner ∨ i = .rotOuter dir cnt ∧ sc = .outer ∨
        i = .rotAll dir cnt ∧ sc = .all) ∧
    89 / 3 ∉ derivedSeq (start 30).inst .outer := by
  refine ⟨witness_inv.1, ?_, by decide⟩
  intro i sc h
  simp only [List.mem_cons, Prod.mk.injEq, List.not_mem_nil, or_false] at h
  obtain ⟨rfl, rfl⟩ | ⟨rfl, rfl⟩ | ⟨rfl, rfl⟩ := h
  · exact ⟨.up, 255, .inl ⟨rfl, rfl⟩⟩
  · exact ⟨.down, 1, .inr (.inl ⟨rfl, rfl⟩)⟩
  · exact ⟨.up, 0, .inr (.inr ⟨rfl, rfl⟩)⟩

/-- RotationInverseAndPeriod: counts that are multiples of each length; both directions. -/
theorem witness_rotation_period :
    (start 30).Inv ∧ (Dir.up = .up ∧ Dir.down = .down ∨ Dir.up = .down ∧ Dir.down = .up) ∧
    (252 : Byte).toNat % maxl (start 30).inst .inner = 0 ∧ (252 : Byte).toNat % maxl (start 30).inst .outer = 0 ∧
    (240 : Byte).toNat % (start 30).inst.n = 0 :=
  ⟨witness_inv.1, .inl ⟨rfl, rfl⟩, by decide, by decide, by decide⟩

/-- ShowMasksInterruptsThroughout, SerializerPosition: the first and the last symbol. -/
theorem witness_show :
    (start 30).Inv ∧ 0 ≤ 24 * (start 30).inst.n ∧ 720 ≤ 24 * (start 30).inst.n ∧ 719 < 24 * (start 30).inst.n :=
  ⟨witness_inv.1, by decide, by decide, by decide⟩

/-- WaveformOfAFrame: a tick of the high phase and the last tick of a period, for a 0 and a 1. -/
theorem witness_waveform :
    (⟨2, 4, 6, 40⟩ : Timing).Legal ∧ ([false, true] : Frame)[0]? = some false ∧ ([false, true] : Frame)[1]? = some true ∧
    0 < (⟨2, 4, 6, 40⟩ : Timing).tbit ∧ 5 < (⟨2, 4, 6, 40⟩ : Timing).tbit := by decide

/-- GapFollowsEachFrame: a gap of exactly `TRESET`, its last tick. -/
theorem witness_gap :
    (⟨2, 4, 6, 40⟩ : Timing).Legal ∧ gapsKept ⟨2, 4, 6, 40⟩ ([] ++ ([false], 40) :: []) ∧
    39 < (⟨2, 4, 6, 40⟩ : Timing).treset := by
  refine ⟨by decide, ?_, by decide⟩
  intro f hf
  simp only [List.nil_append, List.mem_singleton] at hf
  subst hf
  exact Nat.le_refl _

/-- ShowTransmitsTheLatestCopyOut: commands between, SHOW itself among them. -/
theorem witness_between :
    (start 30).Inv ∧ ∀ i ∈ [Instr.setPx 3 Pixel.black, .clrAll, .showOut, .reseed], publishes i = false :=
  ⟨witness_inv.1, by decide⟩

/-- Next32AdvancesTheLanes' second clause; LowLaneBitsAreIgnored's last four, at the ends of their ranges. -/
theorem witness_lanes :
    (inst 30 1 false).laneRec = .lfsr113 ∧ (1 : Word).toNat < 2 ∧ (7 : Word).toNat < 8 ∧ (15 : Word).toNat < 16 ∧
    (127 : Word).toNat < 128 := by decide

/-- DrawsAreDeterminedByTheLanes: two machines that differ in everything but the lanes and the instance. -/
theorem witness_draws :
    ({ start 30 with acc := 1, resp := 2, seedOk := false, samplesRead := 3 } : State).inst = (start 30).inst ∧
    ({ start 30 with acc := 1, resp := 2, seedOk := false, samplesRead := 3 } : State).lanes = (start 30).lanes ∧
    0 < 1 := ⟨rfl, rfl, by decide⟩

/-- HarvestFoldsItsSamples: the first and the last bit. -/
theorem witness_harvest : 0 < 32 ∧ 31 < 32 := by decide

/-- ReseedLoadsFourHarvests: lanes that pass the test (V5.9, row 1) and lanes that fail it (V5.10). -/
theorem witness_reseed :
    (∃ t0 t1 t2 t3, exec .harvest32 (withSamples 1 ((List.range 128).map (BitVec.ofNat 12))) = .next t0 ∧
      exec .harvest32 t0 = .next t1 ∧ exec .harvest32 t1 = .next t2 ∧ exec .harvest32 t2 = .next t3 ∧
      t0.acc ^^^ t1.acc ^^^ t2.acc ^^^ t3.acc ≠ 0) ∧
    (∃ t0 t1 t2 t3, exec .harvest32 (withSamples 1 (List.replicate 128 0x007)) = .next t0 ∧
      exec .harvest32 t0 = .next t1 ∧ exec .harvest32 t1 = .next t2 ∧ exec .harvest32 t2 = .next t3 ∧
      t0.acc ^^^ t1.acc ^^^ t2.acc ^^^ t3.acc = 0) :=
  ⟨⟨_, _, _, _, execHarvest32_eq _, execHarvest32_eq _, execHarvest32_eq _, execHarvest32_eq _, by decide +kernel⟩,
    ⟨_, _, _, _, execHarvest32_eq _, execHarvest32_eq _, execHarvest32_eq _, execHarvest32_eq _, by decide +kernel⟩⟩

/-- A stream of `n` equal samples. -/
theorem sampleAt_replicate (reps n k : Nat) (v : Sample) (h : k < n) :
    (withSamples reps (List.replicate n v)).sampleAt k = v := by
  simp [State.sampleAt, withSamples, h]

/-- StuckPortFailsTheReseed: every sample of the command equal, at `HARVEST_REPEATS` = 3. -/
theorem witness_stuck_reseed :
    ∀ k, k < 128 * (withSamples 3 (List.replicate 384 0x001)).inst.harvestRepeats →
      (withSamples 3 (List.replicate 384 0x001)).sampleAt k = 0x001 :=
  fun k h => sampleAt_replicate 3 384 k 0x001 h

/-- StuckPortHarvest: each clause (V5.8): odd repeats and odd parity; even repeats; even parity. -/
theorem witness_stuck_harvest :
    (∀ k, k < 32 * (withSamples 3 (List.replicate 96 0x001)).inst.harvestRepeats →
      (withSamples 3 (List.replicate 96 0x001)).sampleAt k = 0x001) ∧
    (3 % 2 = 1 ∧ sampleParity 0x001 = true) ∧
    (∀ k, k < 32 * (withSamples 2 (List.replicate 64 0x001)).inst.harvestRepeats →
      (withSamples 2 (List.replicate 64 0x001)).sampleAt k = 0x001) ∧ 2 % 2 = 0 ∧
    (∀ k, k < 32 * (withSamples 3 (List.replicate 96 0x003)).inst.harvestRepeats →
      (withSamples 3 (List.replicate 96 0x003)).sampleAt k = 0x003) ∧ sampleParity 0x003 = false :=
  ⟨fun k h => sampleAt_replicate 3 96 k 0x001 h, by decide, fun k h => sampleAt_replicate 2 64 k 0x001 h, by decide,
    fun k h => sampleAt_replicate 3 96 k 0x003 h, by decide⟩

/-- StepKeepsTheInvariant, WireLogOnlyGrows, EnableAndParametersStay: a step that answers a next state. -/
theorem witness_step_next :
    ((start 30).present 0x4000000000000000).Inv ∧ ∃ t, step ((start 30).present 0x4000000000000000) = .next t :=
  ⟨⟨witness_inv.1.legal, witness_inv.1.work, witness_inv.1.out, rfl, rfl⟩, _, rfl⟩

/-- OnlyTheListedCommandsWrite: for each clause a command that does change the element. -/
theorem witness_writes :
    after (fun t => decide (t.lanes ≠ (start 30).lanes)) 0x5000000000000000 (start 30) = some true ∧
    after (fun t => decide (t.acc ≠ 0)) 0x5200000000000000 (withSamples 1 ((List.range 32).map (BitVec.ofNat 12))) =
      some true ∧
    after (fun t => decide (workPixel 2 t ≠ workPixel 2 (start 30))) 0x2300000000000000 (start 30) = some true ∧
    after (fun t => decide (outPixel 2 t ≠ outPixel 2 (start 30))) 0x2600003FFFFFFFFF (start 30) = some true ∧
    after (fun t => decide (t.txLog ≠ [])) 0x4000000000000000 (start 30) = some true ∧
    after (fun t => decide (t.seedOk ≠ true)) 0x5100000000000000 (withSamples 1 (List.replicate 128 0)) = some true ∧
    after (fun t => decide (t.pin ≠ true ∧ t.txact ≠ true)) 0x4000000000000000
      { start 30 with pin := true, txact := true } = some true ∧
    after (fun t => decide (t.ieSaved ≠ false)) 0x4000000000000000 { start 30 with ieSaved := false } = some true ∧
    after (fun t => decide (t.rotLeft ≠ 1)) 0x3000000000000001 { start 30 with rotLeft := 1 } = some true := by
  decide +kernel

/-- CommandsWithoutResultAnswerZero, EntropyUse: commands of each clause, answered. -/
theorem witness_commands :
    (∃ t, exec .showOut (start 30) = .next t) ∧ hasResult .showOut = false ∧
    (∃ t, exec .harvest32 (start 30) = .next t) ∧ (∃ t, exec .reseed (start 30) = .next t) ∧
    (Instr.nop ≠ .harvest32 ∧ Instr.nop ≠ .reseed) := ⟨⟨_, rfl⟩, rfl, ⟨_, rfl⟩, ⟨_, rfl⟩, by decide⟩

end Sys2Proof.Tests
end

section
/-!
SUPPORT. The invariant at reset (spec/00_scope.md R8, R9; spec/10_state.md R38, R39).
-/

namespace Sys2Proof.Machine

/-- The free durations are ordered as R9 asks, whatever their values: each gap is one more than a free number. -/
theorem Config.openTiming_legal : Config.openTiming.Legal :=
  ⟨Nat.succ_pos _, Nat.lt_add_of_pos_right (Nat.succ_pos _), Nat.lt_add_of_pos_right (Nat.succ_pos _),
    Nat.succ_pos _⟩

/-- The defaults of R8 and R9 make a legal instance. -/
theorem Config.standard_legal : Config.standard.Legal :=
  ⟨by decide, by decide, by decide, by decide, by decide, by decide, Nat.succ_pos _, Config.openTiming_legal⟩

/-- The reset state of a legal instance meets the invariant: reset writes both stores out whole. -/
theorem State.resetOf_inv {p : Instance} (h : p.Legal) : (State.resetOf p).Inv where
  legal := h
  work := Memory.wf_ofBytes p.n Config.powerOnWork
  out := Memory.wf_ofBytes p.n Config.powerOnOut
  txact := rfl
  pin := rfl

/-- Settles O53: the default instance is one of the legal ones, and reset of a legal instance meets the invariant. -/
theorem resetMeetsTheInvariant : Obligations.ResetMeetsTheInvariant :=
  ⟨State.resetOf_inv Config.standard_legal, fun _ h => State.resetOf_inv h⟩

end Sys2Proof.Machine
end

section
/-!
SUPPORT. What a command can do, said once for every command (spec/10_state.md R40), and what a step can do, said once for
every host move. Whatever every step keeps is a case analysis over these two.
-/

namespace Sys2Proof.Machine

/-! ### Steps -/

/-- With no host move PXE is idle (R242). -/
theorem step_of_port_nil {s : State} (h : s.port = []) : step s = .next s := by
  simp [step, State.takeMove, h, idle]

/-- A step on the host's move that sets `ie` (R31, R223). -/
theorem step_of_port_setIe {s : State} {v : Bool} {rest : List HostMove} (h : s.port = .setIe v :: rest) :
    step s = .next { s with ie := v, port := rest } := by
  simp [step, State.takeMove, h, hostSetIe]

/-- A step on a command word runs it in the state whose port has lost the word (R80). -/
theorem step_of_port_command {s : State} {cw : CommandWord} {rest : List HostMove} (h : s.port = .command cw :: rest) :
    step s = runCommand cw { s with port := rest } := by
  simp [step, State.takeMove, h]

theorem runCommand_of_ok {cw : CommandWord} {i : Instr} (h : decode cw = .ok i) (s : State) :
    runCommand cw s = exec i s := by
  simp [runCommand, h]

/-- A reserved word executes as NOP (R86). -/
theorem runCommand_of_error {cw : CommandWord} {e : Reserved} (h : decode cw = .error e) (s : State) :
    runCommand cw s = exec .nop s := by
  simp [runCommand, h, execReserved, exec, execNop]

/-- Whatever the word, running it runs some command. -/
theorem runCommand_eq_exec (cw : CommandWord) (s : State) :
    ∃ i, (decode cw = .ok i ∨ (∃ e, decode cw = .error e) ∧ i = .nop) ∧ runCommand cw s = exec i s := by
  cases h : decode cw with
  | ok i => exact ⟨i, .inl rfl, runCommand_of_ok h s⟩
  | error e => exact ⟨.nop, .inr ⟨⟨e, rfl⟩, rfl⟩, runCommand_of_error h s⟩

/-- All a step can do: nothing, the host's `ie`, or one command (a reserved word's is NOP). -/
theorem step_cases {s t : State} (h : step s = .next t) :
    (s.port = [] ∧ t = s) ∨
    (∃ v rest, s.port = .setIe v :: rest ∧ t = { s with ie := v, port := rest }) ∨
    (∃ cw rest i, s.port = .command cw :: rest ∧
      (decode cw = .ok i ∨ (∃ e, decode cw = .error e) ∧ i = .nop) ∧ exec i { s with port := rest } = .next t) := by
  match hp : s.port with
  | [] =>
    rw [step_of_port_nil hp] at h
    exact .inl ⟨rfl, eq_of_next_eq_next h⟩
  | .setIe v :: rest =>
    rw [step_of_port_setIe hp] at h
    exact .inr (.inl ⟨v, rest, rfl, eq_of_next_eq_next h⟩)
  | .command cw :: rest =>
    rw [step_of_port_command hp] at h
    obtain ⟨i, hi, hr⟩ := runCommand_eq_exec cw { s with port := rest }
    exact .inr (.inr ⟨cw, rest, i, rfl, hi, hr ▸ h⟩)

/-! ### Commands -/

/-- The commands that write pixels of `WORK` from their operands or in place (R131, R133 to R136). -/
inductive WritesPixels : Instr → Prop where
  | setPx (idx : BitVec 16) (p : Pixel) : WritesPixels (.setPx idx p)
  | clrPx (idx : BitVec 16) : WritesPixels (.clrPx idx)
  | clrAll : WritesPixels .clrAll
  | setAll (p : Pixel) : WritesPixels (.setAll p)
  | scaleAll (f : Byte) : WritesPixels (.scaleAll f)

/-- A store that a command may leave in place of `m`: in canonical form if `m` was (R50, R52). -/
def KeepsForm (m m' : Memory) : Prop := ∀ n, Memory.wf n m → Memory.wf n m'

/-- The states command `i` may answer from `s`, by the elements of state that it writes (R40): every field a constructor
does not name is as it was. The values written are left open but where the spec fixes them for every state. -/
inductive CommandFrame (s : State) : Instr → State → Prop where
  /-- the response alone, 0 for a command without a result (R33) -/
  | responds {i : Instr} (w : Word) (hw : hasResult i = false → w = 0) (hi : i ≠ .harvest32 ∧ i ≠ .reseed) :
      CommandFrame s i { s with resp := w }
  | writesWork {i : Instr} {m : Memory} (hi : WritesPixels i) (hm : KeepsForm s.work m) :
      CommandFrame s i { s with work := m, resp := 0 }
  | publishes (mask : Word) (f : Byte) {m : Memory} (hm : KeepsForm s.out m) :
      CommandFrame s (.copyOut mask f) { s with out := m, resp := 0 }
  | rotates (sc : Scope) (dir : Dir) (cnt : Byte) {m : Memory} (j : BitVec 5) (p : Pixel) (hm : KeepsForm s.work m) :
      CommandFrame s (rotInstr sc dir cnt) { s with work := m, rotLeft := 0, rotJ := j, rotSaved := p, resp := 0 }
  /-- one frame logged, the critical section left as it was found (R171, R175) -/
  | shows (f : Frame) (pix : BitVec 5) (byte : BitVec 2) (bit : BitVec 3) :
      CommandFrame s .showOut { s with
        txLog := s.txLog ++ [f], resp := 0, pin := false, txact := false, ieSaved := s.ie
        txPix := pix, txByte := byte, txBit := bit }
  | advances (z : Lanes) (w : Word) : CommandFrame s .next32 { s with lanes := z, resp := w }
  | reseeds (z : Lanes) (a : Word) (ok : Bool) (w : Word) :
      CommandFrame s .reseed { s with
        lanes := z, acc := a, seedOk := ok, resp := w
        entropy := s.entropy.drop (128 * s.inst.harvestRepeats)
        samplesRead := s.samplesRead + 128 * s.inst.harvestRepeats }
  | harvests (a : Word) :
      CommandFrame s .harvest32 { s with
        acc := a, resp := a
        entropy := s.entropy.drop (32 * s.inst.harvestRepeats)
        samplesRead := s.samplesRead + 32 * s.inst.harvestRepeats }

theorem exec_rotInstr (sc : Scope) (dir : Dir) (cnt : Byte) (s : State) :
    exec (rotInstr sc dir cnt) s = .next (rotate sc dir cnt s) := by
  cases sc <;> rfl

theorem rotate_frame (sc : Scope) (dir : Dir) (cnt : Byte) (s : State) :
    CommandFrame s (rotInstr sc dir cnt) (rotate sc dir cnt s) := by
  rw [rotate_eq]
  exact .rotates sc dir cnt _ _ fun _ h => wf_rotLoop _ _ _ _ h

/-- Every command answers a next state, and one its frame allows (R40, R210). -/
theorem exec_next_frame (i : Instr) (s : State) : ∃ t, exec i s = .next t ∧ CommandFrame s i t := by
  cases i with
  | nop => exact ⟨_, rfl, .responds 0 (fun _ => rfl) (by simp)⟩
  | pxrgb | pxint | pxpal | scale | add | mix | getPx => exact ⟨_, rfl, .responds _ nofun (by simp)⟩
  | setPx idx p => exact ⟨_, rfl, .writesWork (.setPx idx p) fun _ h => Memory.wf_setPixel h _ _⟩
  | clrPx idx => exact ⟨_, rfl, .writesWork (.clrPx idx) fun _ h => Memory.wf_setPixel h _ _⟩
  | clrAll => exact ⟨_, rfl, .writesWork .clrAll fun _ h => Memory.wf_forPixels h _ _⟩
  | setAll p => exact ⟨_, rfl, .writesWork (.setAll p) fun _ h => Memory.wf_forPixels h _ _⟩
  | scaleAll f => exact ⟨_, rfl, .writesWork (.scaleAll f) fun _ h => Memory.wf_forPixels h _ _⟩
  | copyOut mask f => exact ⟨_, rfl, .publishes mask f fun _ h => Memory.wf_forPixels h _ _⟩
  | rotInner dir cnt => exact ⟨_, rfl, rotate_frame .inner dir cnt s⟩
  | rotOuter dir cnt => exact ⟨_, rfl, rotate_frame .outer dir cnt s⟩
  | rotAll dir cnt => exact ⟨_, rfl, rotate_frame .all dir cnt s⟩
  | showOut => exact ⟨_, execShowOut_eq s, .shows _ _ _ _⟩
  | next32 => exact ⟨_, rfl, .advances _ _⟩
  | reseed => exact ⟨_, execReseed_eq s, .reseeds _ _ _ _⟩
  | harvest32 => exact ⟨_, execHarvest32_eq s, .harvests _⟩

theorem exec_frame {i : Instr} {s t : State} (h : exec i s = .next t) : CommandFrame s i t := by
  obtain ⟨t', ht', hf⟩ := exec_next_frame i s
  rw [ht'] at h
  exact eq_of_next_eq_next h ▸ hf

namespace CommandFrame

variable {i : Instr} {s t : State}

/-- The invariant reads neither what a command answers nor its scratch registers; a store it writes keeps its form. -/
theorem inv (hf : CommandFrame s i t) (h : s.Inv) : t.Inv := by
  obtain ⟨legal, work, out, txact, pin⟩ := h
  cases hf with
  | responds | advances | reseeds | harvests => exact ⟨legal, work, out, txact, pin⟩
  | writesWork _ hm | rotates _ _ _ _ _ hm => exact ⟨legal, hm _ work, out, txact, pin⟩
  | publishes _ _ hm => exact ⟨legal, work, hm _ out, txact, pin⟩
  | shows => exact ⟨legal, work, out, rfl, rfl⟩

theorem ie_eq (hf : CommandFrame s i t) : t.ie = s.ie := by cases hf <;> rfl

theorem inst_eq (hf : CommandFrame s i t) : t.inst = s.inst := by cases hf <;> rfl

theorem port_eq (hf : CommandFrame s i t) : t.port = s.port := by cases hf <;> rfl

theorem resp_eq_zero (hf : CommandFrame s i t) (h : hasResult i = false) : t.resp = 0 := by
  cases hf with
  | responds w hw => exact hw h
  | writesWork | publishes | rotates | shows => rfl
  | advances | reseeds | harvests => simp [hasResult] at h

theorem txLog_grows (hf : CommandFrame s i t) : t.txLog = s.txLog ∨ ∃ f, t.txLog = s.txLog ++ [f] := by
  cases hf with
  | shows f => exact .inr ⟨f, rfl⟩
  | responds | writesWork | publishes | rotates | advances | reseeds | harvests => exact .inl rfl

end CommandFrame

end Sys2Proof.Machine
end

section
/-!
SUPPORT. SHOW's schedule in closed form: where the serializer stands at symbol `k` (spec/10_state.md R27;
spec/43_serial_driver.md R171).
-/

namespace Sys2Proof.Machine

/-- The position of symbol number `k`: its pixel, its byte, and its bit, most significant first (R27). -/
def txPosition (k : Nat) : Nat × Nat × Nat := (k / 24, k % 24 / 8, 7 - k % 8)

/-- One pixel's 24 positions are those of the symbols from `24 * n` on. -/
theorem txPixel_eq_map_txPosition (n : Nat) :
    ([0, 1, 2].flatMap fun byte => [7, 6, 5, 4, 3, 2, 1, 0].map fun bit => (n, byte, bit)) =
      (List.range 24).map fun j => txPosition (24 * n + j) := by
  have h : ((List.range 24).map fun j => txPosition (24 * n + j)) = (List.range 24).map fun j => (n, j / 8, 7 - j % 8) :=
    List.map_congr_left fun j hj => by
      have hj := List.mem_range.mp hj
      simp only [txPosition, Prod.mk.injEq]
      omega
  rw [h]; rfl

/-- The schedule, symbol by symbol. -/
theorem txSchedule_eq_map_txPosition (n : Nat) : txSchedule n = (List.range (24 * n)).map txPosition := by
  induction n with
  | zero => rfl
  | succ n ih =>
    rw [txSchedule_succ, ih, txPixel_eq_map_txPosition, Nat.mul_succ, List.range_add, List.map_append, List.map_map]
    rfl

/-- Each symbol of SHOW's loop is one turn at its position (R171). -/
theorem showProgress_succ {s : State} {k : Nat} (hk : k < 24 * s.inst.n) :
    showProgress (k + 1) s = emitAt (showProgress k s) (txPosition k) := by
  have hget : (txSchedule s.inst.n)[k]? = some (txPosition k) := by
    simp [txSchedule_eq_map_txPosition, hk]
  rw [showProgress, List.take_add_one, hget, List.foldl_append]
  rfl

end Sys2Proof.Machine
end

section
/-!
The statements about the state as a whole (spec/10_state.md), each from the frame of a command or of a step.
-/

namespace Sys2Proof.Machine

/-- Settles O54: a host move other than a command touches no field the invariant reads, and a command keeps it by its
frame. -/
theorem stepKeepsTheInvariant : Obligations.StepKeepsTheInvariant := by
  intro s t hs h
  obtain ⟨-, rfl⟩ | ⟨v, rest, -, rfl⟩ | ⟨cw, rest, i, -, -, hx⟩ := step_cases h
  · exact hs
  · exact ⟨hs.legal, hs.work, hs.out, hs.txact, hs.pin⟩
  · exact (exec_frame hx).inv ⟨hs.legal, hs.work, hs.out, hs.txact, hs.pin⟩

/-- Settles O38: the registers hold the position of the last symbol; `N` is at most 32, so none of them wraps. -/
theorem serializerPosition : Obligations.SerializerPosition := by
  intro s k hs hk
  obtain ⟨-, hn, -⟩ := hs.legal
  rw [showProgress_succ hk]
  simp only [emitAt, txPosition, BitVec.toNat_ofNat]
  omega

/-- Settles O56: the frame of each command names the elements it writes; of every other one the two values are the
same. -/
theorem onlyTheListedCommandsWrite : Obligations.OnlyTheListedCommandsWrite := by
  intro i s t h
  have hf := exec_frame h
  clear h
  cases hf with
  | responds | publishes | shows | advances | reseeds | harvests => simp
  | writesWork hi => cases hi <;> simp
  | rotates sc => cases sc <;> simp [rotInstr]

/-- Settles O57: no command's frame holds these fields, and the host's own moves write `ie` and the port alone. -/
theorem enableAndParametersStay : Obligations.EnableAndParametersStay := by
  refine ⟨fun i s t h => ⟨(exec_frame h).ie_eq, (exec_frame h).inst_eq, (exec_frame h).port_eq⟩, fun s t h => ?_⟩
  obtain ⟨-, rfl⟩ | ⟨v, rest, -, rfl⟩ | ⟨cw, rest, i, -, -, hx⟩ := step_cases h
  · rfl
  · rfl
  · exact (exec_frame hx).inst_eq

/-- Settles O58: where a frame leaves the answer open, the command has a result or the answer is 0. -/
theorem commandsWithoutResultAnswerZero : Obligations.CommandsWithoutResultAnswerZero :=
  fun _ _ _ h => (exec_frame h).resp_eq_zero

/-- Settles O59: only SHOW's frame holds the log, one frame longer. -/
theorem wireLogOnlyGrows : Obligations.WireLogOnlyGrows := by
  intro s t h
  obtain ⟨-, rfl⟩ | ⟨v, rest, -, rfl⟩ | ⟨cw, rest, i, -, -, hx⟩ := step_cases h
  · exact .inl rfl
  · exact .inl rfl
  · exact (exec_frame hx).txLog_grows

/-- Settles O60: the two harvesting commands drop their samples from the stream; no other frame holds the stream. -/
theorem entropyUse : Obligations.EntropyUse := by
  intro i s t h
  have hf := exec_frame h
  clear h
  cases hf with
  | responds _ _ hi => simp [hi]
  | writesWork hi => cases hi <;> simp
  | rotates sc => cases sc <;> simp [rotInstr]
  | publishes | shows | advances | reseeds | harvests => simp

/-- Settles O8: the two equations of a step that runs no command. -/
theorem hostMovesOtherThanCommands : Obligations.HostMovesOtherThanCommands :=
  fun _ => ⟨step_of_port_nil, fun _ _ => step_of_port_setIe⟩

/-- Settles O52: reset writes each of these as R37 and R38 say, with no parameter but `SEED_DEFAULT` in them. -/
theorem resetValues : Obligations.ResetValues :=
  fun _ => ⟨rfl, rfl, rfl, rfl, rfl, rfl, rfl⟩

end Sys2Proof.Machine
end

section
/-!
SUPPORT. Runs of commands, the store COPYOUT publishes, and the frame of SHOW in closed form (spec/10_state.md R63, R65;
spec/41_pixel_buffer.md R137; spec/43_serial_driver.md R173).
-/

namespace Sys2Proof.Machine

/-! ### Runs of commands (R63) -/

theorem execAll_cons_of_next {i : Instr} {s t : State} (h : exec i s = .next t) (l : List Instr) :
    execAll (i :: l) s = execAll l t := by
  simp [execAll, h]

/-- A run that completes goes on from where it ended. -/
theorem execAll_append_of_next {l : List Instr} {s t : State} (h : execAll l s = .next t) (l' : List Instr) :
    execAll (l ++ l') s = execAll l' t := by
  induction l generalizing s with
  | nil => rw [List.nil_append, eq_of_next_eq_next h]
  | cons i l ih =>
    obtain ⟨u, hu, -⟩ := exec_next_frame i s
    rw [execAll_cons_of_next hu] at h
    rw [List.cons_append, execAll_cons_of_next hu, ih h]

/-! ### `OUT` and COPYOUT (R65, R137) -/

/-- Only COPYOUT's frame holds `OUT` (R65). -/
theorem CommandFrame.out_eq {i : Instr} {s t : State} (hf : CommandFrame s i t) (h : Machine.publishes i = false) :
    t.out = s.out := by
  cases hf with
  | publishes => simp [Machine.publishes] at h
  | responds | writesWork | rotates | shows | advances | reseeds | harvests => rfl

/-- A run without COPYOUT completes and keeps `OUT` (R65). -/
theorem execAll_next_of_not_publishes {l : List Instr} (h : ∀ i ∈ l, publishes i = false) (s : State) :
    ∃ t, execAll l s = .next t ∧ t.out = s.out ∧ t.inst = s.inst := by
  induction l generalizing s with
  | nil => exact ⟨s, rfl, rfl, rfl⟩
  | cons i l ih =>
    obtain ⟨hi, hl⟩ := List.forall_mem_cons.mp h
    obtain ⟨u, hu, hf⟩ := exec_next_frame i s
    obtain ⟨t, ht, hout, hinst⟩ := ih hl u
    exact ⟨t, (execAll_cons_of_next hu l).trans ht, hout.trans (hf.out_eq hi), hinst.trans hf.inst_eq⟩

theorem exec_copyOut (mask : Word) (f : Byte) (s : State) :
    exec (.copyOut mask f) s = .next ((s.publish mask f).respond 0) := rfl

/-- COPYOUT leaves the published pixel at each index, whatever `OUT` held (R137). -/
theorem pixel_publish {s : State} (h : s.Inv) (mask : Word) (f : Byte) {i : Nat} (hi : i < s.inst.n) :
    Memory.pixel (s.publish mask f).out i = publishedPixel s.work mask f i :=
  (Memory.pixel_forPixels h.out (fun i _ => publishedPixel s.work mask f i) le_rfl i).trans (if_pos hi)

/-! ### The frame of SHOW (R173) -/

/-- The bit of `OUT` that symbol `k` carries, by the pixel it belongs to. -/
theorem symbolAt_txPosition (s : State) (k : Nat) :
    symbolAt s (txPosition k) = wireSymbol (Memory.pixel s.out) k := by
  have hb : k % 24 / 8 = 0 ∨ k % 24 / 8 = 1 ∨ k % 24 / 8 = 2 := by omega
  rcases hb with hb | hb | hb <;> simp [symbolAt, txPosition, wireSymbol, wireByte, Memory.pixel, hb]

/-- SHOW's loop gathers the frame of `OUT`'s pixels. -/
theorem showLoop_isFrame (s : State) : IsFrame (showLoop s).2 s.inst.n (Memory.pixel s.out) := by
  have hf : (showLoop s).2 = (List.range (24 * s.inst.n)).map (wireSymbol (Memory.pixel s.out)) := by
    rw [showLoop_frame, txSchedule_eq_map_txPosition, List.map_map]
    exact List.map_congr_left fun k _ => symbolAt_txPosition s k
  rw [hf]
  exact ⟨by simp, fun k hk => by simp [hk]⟩

/-- A frame of `n` pixels reads its pixels below `n` alone. -/
theorem IsFrame.congr {f : Frame} {n : Nat} {px px' : Nat → Pixel} (h : IsFrame f n px)
    (hp : ∀ i, i < n → px i = px' i) : IsFrame f n px' := by
  obtain ⟨hlen, hsym⟩ := h
  refine ⟨hlen, fun k hk => ?_⟩
  rw [hsym k hk, wireSymbol, wireSymbol, hp (k / 24) (by omega)]

/-- SHOW completes and logs, after the frames so far, the frame of `OUT`'s pixels. -/
theorem exec_showOut_next (s : State) :
    ∃ t f, exec .showOut s = .next t ∧ t.txLog = s.txLog ++ [f] ∧ IsFrame f s.inst.n (Memory.pixel s.out) :=
  ⟨_, _, execShowOut_eq s, rfl, showLoop_isFrame s⟩

end Sys2Proof.Machine
end

section
/-!
The statements about the memory (spec/20_memory.md).
-/

namespace Sys2Proof.Machine

/-- Operands that differ by a multiple of `N` have one effective index, as long as both fit the field (R55, R132). -/
theorem effectiveIndex_add_mul (p : Instance) {i k : Nat} (h : i + k * p.n ≤ 65535) :
    effectiveIndex p (BitVec.ofNat 16 (i + k * p.n)) = effectiveIndex p (BitVec.ofNat 16 i) := by
  have hfit : ∀ {v : Nat}, v ≤ 65535 → (BitVec.ofNat 16 v).toNat = v := fun hv =>
    (BitVec.toNat_ofNat _ _).trans (Nat.mod_eq_of_lt (by omega))
  rw [effectiveIndex, effectiveIndex, hfit h, hfit (Nat.le_of_add_right_le h), Nat.add_mul_mod_self_right]

/-- GET reads its operand by the effective index alone (R132). -/
theorem exec_getPx_congr {s : State} {idx idx' : BitVec 16} (h : effectiveIndex s.inst idx = effectiveIndex s.inst idx') :
    exec (.getPx idx) s = exec (.getPx idx') s := by
  simp only [exec, execGetPx, h]

/-- Settles O22: a legal instance has pixels, so the remainder is a real index, and it is the same after a wrap. -/
theorem indexWrapsModuloN : Obligations.IndexWrapsModuloN := fun s hs =>
  ⟨fun idx => ⟨rfl, effectiveIndex_lt hs.legal idx⟩,
    fun _ _ h => exec_getPx_congr (effectiveIndex_add_mul s.inst h)⟩

/-- Settles O41: COPYOUT fixes `OUT`'s pixels, a run without COPYOUT keeps `OUT`, and SHOW sends `OUT`'s pixels. -/
theorem showTransmitsTheLatestCopyOut : Obligations.ShowTransmitsTheLatestCopyOut := by
  intro s mask f between hs hb
  obtain ⟨u, hu, hout, hinst⟩ := execAll_next_of_not_publishes hb ((s.publish mask f).respond 0)
  obtain ⟨t, frame, ht, hlog, hframe⟩ := exec_showOut_next u
  refine ⟨t, frame, u.txLog, ?_, hlog, ?_⟩
  · rw [execAll_cons_of_next (exec_copyOut mask f s), execAll_append_of_next hu, execAll_cons_of_next ht, execAll]
  · rw [hout, hinst] at hframe
    exact hframe.congr fun i hi => pixel_publish hs mask f hi

end Sys2Proof.Machine
end

section
/-!
SUPPORT. A command's fields as one list (spec/30_encoding.md R81, R83, R85): its row's key, the opcode and for a rotation
the scope, then its operands. `encode`, `usedBits`, `rowMask` and `rowMatch` are read off this list (`encode_eq_word` and
the three lemmas after it), and a word decodes to the command exactly when it holds every field of the list
(`in_of_decode`, `decode_of_in`).
-/

namespace Sys2Proof

/-! ### Fields with their values -/

/-- `w` bits from bit `lo` up, and the value they hold. -/
structure FieldValue where
  lo : Nat
  w : Nat
  v : BitVec w

namespace FieldValue

/-- The word holds the field's value at the field's bits. -/
def In (f : FieldValue) (cw : CommandWord) : Prop := cw.extractLsb' f.lo f.w = f.v

/-- The field with every bit set. -/
def ones (f : FieldValue) : FieldValue := ⟨f.lo, f.w, BitVec.allOnes f.w⟩

/-- The field lies above the other: they share no bit. -/
def Above (f g : FieldValue) : Prop := g.lo + g.w ≤ f.lo

/-- The word that holds the fields and is 0 elsewhere. -/
def word : List FieldValue → CommandWord
  | [] => 0
  | f :: fs => place f.v f.lo ||| word fs

/-- Fields that share no bit, from high to low, inside the command word. -/
structure Ordered (fs : List FieldValue) : Prop where
  above : fs.Pairwise Above
  inside : ∀ f ∈ fs, f.lo + f.w ≤ 64

theorem Ordered.tail {f : FieldValue} {fs : List FieldValue} (h : Ordered (f :: fs)) : Ordered fs :=
  ⟨(List.pairwise_cons.mp h.above).2, fun g hg => h.inside g (List.mem_cons_of_mem f hg)⟩

theorem Ordered.map_ones {fs : List FieldValue} (h : Ordered fs) : Ordered (fs.map ones) :=
  ⟨List.pairwise_map.mpr h.above, List.forall_mem_map.mpr h.inside⟩

/-- Bits above all the fields read 0. -/
theorem extract_word_of_above {f : FieldValue} {fs : List FieldValue} (h : ∀ g ∈ fs, Above f g) :
    (word fs).extractLsb' f.lo f.w = 0 := by
  induction fs with
  | nil => simp [word]
  | cons g fs ih =>
    obtain ⟨hg, hfs⟩ := List.forall_mem_cons.mp h
    rw [word, BitVec.extractLsb'_or, extract_place_of_disjoint _ _ _ _ (.inr hg), ih hfs, BitVec.or_self]

/-- The word of ordered fields holds each of them. -/
theorem in_word {fs : List FieldValue} (h : Ordered fs) {f : FieldValue} (hf : f ∈ fs) : f.In (word fs) := by
  induction fs with
  | nil => cases hf
  | cons g fs ih =>
    have hg := (List.pairwise_cons.mp h.above).1
    rw [In, word, BitVec.extractLsb'_or]
    obtain rfl | hf := List.mem_cons.mp hf
    · rw [extract_place_self _ _ (h.inside f hf), extract_word_of_above hg]
      exact BitVec.or_zero
    · rw [extract_place_of_disjoint _ _ _ _ (.inl (hg f hf)), ih h.tail hf]
      exact BitVec.zero_or

/-- Under the mask of its fields, a word that holds them is their word. -/
theorem and_word_ones_of_in {fs : List FieldValue} {cw : CommandWord} (h : ∀ f ∈ fs, f.In cw) :
    cw &&& word (fs.map ones) = word fs := by
  induction fs with
  | nil => exact BitVec.and_zero
  | cons f fs ih =>
    obtain ⟨hf, hfs⟩ := List.forall_mem_cons.mp h
    rw [List.map_cons, word, word, BitVec.and_or_distrib_left, ih hfs, ones, ← place_extract, hf]

/-- The mask of ordered fields takes in every bit of each of them. -/
theorem extract_and_word_ones {fs : List FieldValue} (h : Ordered fs) {f : FieldValue} (hf : f ∈ fs)
    (cw : CommandWord) : (cw &&& word (fs.map ones)).extractLsb' f.lo f.w = cw.extractLsb' f.lo f.w := by
  have hm : (word (fs.map ones)).extractLsb' f.lo f.w = BitVec.allOnes f.w :=
    in_word h.map_ones (List.mem_map_of_mem (f := ones) hf)
  rw [BitVec.extractLsb'_and, hm, BitVec.and_allOnes]

/-- A word holds ordered fields exactly when it agrees with their word under their mask. -/
theorem forall_in_iff {fs : List FieldValue} (h : Ordered fs) (cw : CommandWord) :
    (∀ f ∈ fs, f.In cw) ↔ cw &&& word (fs.map ones) = word fs := by
  refine ⟨and_word_ones_of_in, fun he f hf => ?_⟩
  rw [In, ← extract_and_word_ones h hf, he]
  exact in_word h hf

end FieldValue

/-! ### The fields of a command -/

/-- `OP` with the value it has for the command (R85). -/
def opcode : Instr → Byte
  | .nop => 0x00
  | .pxrgb _ _ _ => 0x10
  | .pxint _ => 0x11
  | .pxpal _ => 0x12
  | .scale _ _ => 0x13
  | .add _ _ => 0x14
  | .mix _ _ _ => 0x15
  | .setPx _ _ => 0x20
  | .getPx _ => 0x21
  | .clrPx _ => 0x22
  | .clrAll => 0x23
  | .setAll _ => 0x24
  | .scaleAll _ => 0x25
  | .copyOut _ _ => 0x26
  | .rotInner _ _ | .rotOuter _ _ | .rotAll _ _ => 0x30
  | .showOut => 0x40
  | .next32 => 0x50
  | .reseed => 0x51
  | .harvest32 => 0x52

/-- `SCOPE` of the rotation commands (R85); no other command has it. -/
def scopeFields : Instr → List FieldValue
  | .rotInner _ _ => [⟨16, 2, 0⟩]
  | .rotOuter _ _ => [⟨16, 2, 1⟩]
  | .rotAll _ _ => [⟨16, 2, 2⟩]
  | _ => []

/-- The fields that select a command's row (R82, R85). -/
def rowFields (i : Instr) : List FieldValue := ⟨56, 8, opcode i⟩ :: scopeFields i

/-- The operands of a command at the bits of R81. -/
def operandFields : Instr → List FieldValue
  | .nop | .clrAll | .showOut | .next32 | .reseed | .harvest32 => []
  | .pxrgb r g b => [⟨32, 24, Pixel.pack ⟨r, g, b⟩⟩]
  | .pxint v => [⟨32, 24, v⟩]
  | .pxpal cid => [⟨0, 8, cid⟩]
  | .scale p f => [⟨32, 24, p.pack⟩, ⟨0, 8, f⟩]
  | .add a b => [⟨32, 24, a.pack⟩, ⟨8, 24, b.pack⟩]
  | .mix a b f => [⟨32, 24, a.pack⟩, ⟨8, 24, b.pack⟩, ⟨0, 8, f⟩]
  | .setPx idx p => [⟨32, 24, p.pack⟩, ⟨16, 16, idx⟩]
  | .getPx idx | .clrPx idx => [⟨16, 16, idx⟩]
  | .setAll p => [⟨32, 24, p.pack⟩]
  | .scaleAll f => [⟨0, 8, f⟩]
  | .copyOut mask f => [⟨8, 32, mask⟩, ⟨0, 8, f⟩]
  | .rotInner dir cnt | .rotOuter dir cnt | .rotAll dir cnt => [⟨8, 1, dir.bit⟩, ⟨0, 8, cnt⟩]

/-- All fields of a command, from high to low (R83). -/
def commandFields (i : Instr) : List FieldValue := rowFields i ++ operandFields i

theorem commandFields_ordered (i : Instr) : FieldValue.Ordered (commandFields i) := by
  constructor
  · cases i <;> simp [commandFields, rowFields, scopeFields, operandFields, FieldValue.Above]
  · cases i <;> simp [commandFields, rowFields, scopeFields, operandFields]

theorem rowFields_ordered (i : Instr) : FieldValue.Ordered (rowFields i) :=
  ⟨(List.pairwise_append.mp (commandFields_ordered i).above).1,
    fun f hf => (commandFields_ordered i).inside f (List.mem_append_left _ hf)⟩

theorem encode_eq_word (i : Instr) : encode i = FieldValue.word (commandFields i) := by
  cases i <;> simp [encode, encodeRot, placeOp, placeA, placeB, placeF, placeIdx, commandFields, rowFields, scopeFields,
    operandFields, opcode, FieldValue.word, BitVec.or_assoc]

theorem usedBits_eq_word (i : Instr) : usedBits i = FieldValue.word ((commandFields i).map FieldValue.ones) := by
  cases i <;> simp [usedBits, commandFields, rowFields, scopeFields, operandFields, FieldValue.word, FieldValue.ones,
    place]

theorem rowMask_eq_word (i : Instr) : rowMask i = FieldValue.word ((rowFields i).map FieldValue.ones) := by
  cases i <;> simp [rowMask, rowFields, scopeFields, FieldValue.word, FieldValue.ones, place]

theorem rowMatch_eq_word (i : Instr) : rowMatch i = FieldValue.word (rowFields i) := by
  cases i <;> simp [rowMatch, rowFields, scopeFields, opcode, FieldValue.word, place]

/-! ### What a word decodes to -/

/-- A word holds all fields of a command exactly when it agrees with the command's word on the used bits. -/
theorem forall_commandFields_in_iff (cw : CommandWord) (i : Instr) :
    (∀ f ∈ commandFields i, f.In cw) ↔ cw &&& usedBits i = encode i := by
  rw [FieldValue.forall_in_iff (commandFields_ordered i), usedBits_eq_word, encode_eq_word]

/-- A word lies in a command's row exactly when it holds the row's fields. -/
theorem forall_rowFields_in_iff (cw : CommandWord) (i : Instr) :
    (∀ f ∈ rowFields i, f.In cw) ↔ cw &&& rowMask i = rowMatch i := by
  rw [FieldValue.forall_in_iff (rowFields_ordered i), rowMask_eq_word, rowMatch_eq_word]

/-- `Pixel.pack_ofPacked` for a pixel given by its channels, as PXRGB has it. -/
theorem Pixel.pack_channels_ofPacked (v : BitVec 24) :
    Pixel.pack ⟨(Pixel.ofPacked v).r, (Pixel.ofPacked v).g, (Pixel.ofPacked v).b⟩ = v :=
  Pixel.pack_ofPacked v

/-- The decoder matches on the opcode as a number. -/
theorem fieldOp_eq_ofNat {cw : CommandWord} {n : Nat} (h : (fieldOp cw).toNat = n) : fieldOp cw = BitVec.ofNat 8 n := by
  rw [← h, BitVec.ofNat_toNat, BitVec.setWidth_eq]

/-- Bit 8 is the `DIR` bit of a direction exactly when it reads as that direction (R81). -/
theorem extract_eq_dirBit_iff (cw : CommandWord) (dir : Dir) : cw.extractLsb' 8 1 = dir.bit ↔ fieldDir cw = dir := by
  have h : cw.extractLsb' 8 1 = 0#1 ∨ cw.extractLsb' 8 1 = 1#1 := BitVec.eq_zero_or_eq_one _
  obtain h | h := h <;> cases dir <;> simp [fieldDir, h, Dir.bit]

/-- What a rotation word can decode to (R85, R159). -/
theorem decodeRot_cases {cw : CommandWord} (hop : fieldOp cw = 0x30) :
    (∃ i, decodeRot cw = .ok i ∧ ∀ f ∈ commandFields i, f.In cw) ∨
    (decodeRot cw = .error .scope3 ∧ fieldScope cw = 3) := by
  have hs : fieldScope cw = 0 ∨ fieldScope cw = 1 ∨ fieldScope cw = 2 ∨ fieldScope cw = 3 := by
    generalize fieldScope cw = sc
    revert sc
    decide
  rcases hs with hs | hs | hs | hs
  case inr.inr.inr => exact .inr ⟨by simp [decodeRot, hs], hs⟩
  all_goals
    refine .inl ⟨_, by rw [decodeRot, hs]; rfl, ?_⟩
    simpa [commandFields, rowFields, scopeFields, operandFields, opcode, FieldValue.In, extract_eq_dirBit_iff,
      fieldCnt] using ⟨hop, hs⟩

/-- All a word can decode to: a command whose fields it holds, or nothing, by its opcode or by its scope (R85, R86). -/
theorem decode_cases (cw : CommandWord) :
    (∃ i, decode cw = .ok i ∧ ∀ f ∈ commandFields i, f.In cw) ∨
    (decode cw = .error (.opcode (fieldOp cw)) ∧ fieldOp cw ∉ assignedOpcodes) ∨
    (decode cw = .error .scope3 ∧ fieldOp cw = 0x30 ∧ fieldScope cw = 3) := by
  unfold decode
  split
  case h_15 hop =>
    -- opcode 0x30: the scope decides
    obtain h | ⟨h, hs⟩ := decodeRot_cases (fieldOp_eq_ofNat hop)
    · exact .inl h
    · exact .inr (.inr ⟨h, fieldOp_eq_ofNat hop, hs⟩)
  case h_20 =>
    -- none of the opcodes of R85
    refine .inr (.inl ⟨rfl, ?_⟩)
    simp_all [assignedOpcodes, BitVec.toNat_eq]
  all_goals
    rename_i hop
    have hop := fieldOp_eq_ofNat hop
    refine .inl ⟨_, rfl, ?_⟩
    simpa [commandFields, rowFields, scopeFields, operandFields, opcode, FieldValue.In, fieldOp, fieldA, fieldB, fieldF,
      fieldIdx, fieldMask, fieldCid, Pixel.pack_channels_ofPacked] using hop

/-- A word that holds a command's fields decodes to it. -/
theorem decode_of_in {cw : CommandWord} {i : Instr} (h : ∀ f ∈ commandFields i, f.In cw) : decode cw = .ok i := by
  cases i
  all_goals
    simp [commandFields, rowFields, scopeFields, operandFields, opcode, FieldValue.In, extract_eq_dirBit_iff] at h
    simp [decode, decodeRot, fieldOp, fieldA, fieldB, fieldF, fieldIdx, fieldMask, fieldScope, fieldCnt, fieldCid, h]

/-- A word that holds the fields of a command's row decodes to some command of that row (R82). -/
theorem decode_of_row {cw : CommandWord} {i : Instr} (h : ∀ f ∈ rowFields i, f.In cw) :
    ∃ j, decode cw = .ok j ∧ usedBits j = usedBits i ∧ rowMatch j = rowMatch i := by
  cases i
  all_goals
    simp [rowFields, scopeFields, opcode, FieldValue.In] at h
    simp [decode, decodeRot, fieldOp, fieldScope, h, usedBits, rowMatch]

/-- A word that decodes holds the fields of its command. -/
theorem in_of_decode {cw : CommandWord} {i : Instr} (h : decode cw = .ok i) : ∀ f ∈ commandFields i, f.In cw := by
  obtain ⟨j, hj, hf⟩ | ⟨he, -⟩ | ⟨he, -⟩ := decode_cases cw
  · cases h.symm.trans hj
    exact hf
  · cases h.symm.trans he
  · cases h.symm.trans he

theorem row_in_of_decode {cw : CommandWord} {i : Instr} (h : decode cw = .ok i) : ∀ f ∈ rowFields i, f.In cw :=
  fun f hf => in_of_decode h f (List.mem_append_left _ hf)

theorem fieldOp_of_decode {cw : CommandWord} {i : Instr} (h : decode cw = .ok i) : fieldOp cw = opcode i :=
  row_in_of_decode h _ List.mem_cons_self

theorem fieldScope_of_decode {cw : CommandWord} {i : Instr} {sc : BitVec 2} (h : decode cw = .ok i)
    (hsc : scopeFields i = [⟨16, 2, sc⟩]) : fieldScope cw = sc :=
  row_in_of_decode h ⟨16, 2, sc⟩ (by simp [rowFields, hsc])

/-- The decoder in one equation: a word decodes to the command whose word it is on the bits the command uses (R82). -/
theorem decode_eq_ok_iff (cw : CommandWord) (i : Instr) : decode cw = .ok i ↔ cw &&& usedBits i = encode i :=
  Iff.trans ⟨in_of_decode, decode_of_in⟩ (forall_commandFields_in_iff cw i)

theorem decode_encode (i : Instr) : decode (encode i) = .ok i :=
  decode_of_in fun _ hf => encode_eq_word i ▸ FieldValue.in_word (commandFields_ordered i) hf

/-- The encoder sets no bit the command does not use (R82). -/
theorem encode_and_not_usedBits (i : Instr) : encode i &&& ~~~ usedBits i = 0 := by
  rw [← (decode_eq_ok_iff _ i).mp (decode_encode i), BitVec.and_assoc, BitVec.and_not_self]
  exact BitVec.and_zero

/-- The rotation commands, and they alone, have a scope, which is not the reserved one (R85, R159). -/
theorem scopeFields_cases (i : Instr) :
    (opcode i ≠ 0x30 ∧ scopeFields i = []) ∨ (opcode i = 0x30 ∧ ∃ sc, sc ≠ 3 ∧ scopeFields i = [⟨16, 2, sc⟩]) := by
  cases i <;> simp [opcode, scopeFields]

theorem opcode_mem_assignedOpcodes (i : Instr) : opcode i ∈ assignedOpcodes := by
  cases i <;> simp [opcode, assignedOpcodes]

/-- A word with the opcode, and for a rotation the scope, of a word that decodes lies in the same row (R82). -/
theorem row_in_of_same_key {cw cw' : CommandWord} {i : Instr} (h : decode cw = .ok i) (hop : fieldOp cw' = fieldOp cw)
    (hs : fieldOp cw = 0x30 → fieldScope cw' = fieldScope cw) : ∀ f ∈ rowFields i, f.In cw' := by
  refine List.forall_mem_cons.mpr ⟨hop.trans (fieldOp_of_decode h), ?_⟩
  obtain ⟨-, hsc⟩ | ⟨hrot, sc, -, hsc⟩ := scopeFields_cases i
  · simp [hsc]
  · rw [hsc, List.forall_mem_singleton]
    exact (hs ((fieldOp_of_decode h).trans hrot)).trans (fieldScope_of_decode h hsc)

/-- The words the decoder rejects (R86, R159). -/
theorem decode_error_iff (cw : CommandWord) : (∃ e, decode cw = .error e) ↔
    fieldOp cw ∉ assignedOpcodes ∨ (fieldOp cw = 0x30 ∧ fieldScope cw = 3) := by
  obtain ⟨i, hi, -⟩ | ⟨he, hop⟩ | ⟨he, hkey⟩ := decode_cases cw
  · have hop := fieldOp_of_decode hi
    have hscope : ¬ (fieldOp cw = 0x30 ∧ fieldScope cw = 3) := by
      rintro ⟨hrot, h3⟩
      obtain ⟨hne, -⟩ | ⟨-, sc, hsc, hf⟩ := scopeFields_cases i
      · exact hne (hop.symm.trans hrot)
      · exact hsc ((fieldScope_of_decode hi hf).symm.trans h3)
    have hmem : fieldOp cw ∈ assignedOpcodes := hop ▸ opcode_mem_assignedOpcodes i
    exact iff_of_false (by simp [hi]) (not_or.mpr ⟨not_not.mpr hmem, hscope⟩)
  · exact iff_of_true ⟨_, he⟩ (.inl hop)
  · exact iff_of_true ⟨_, he⟩ (.inr hkey)

/-- A row's mask is fixed by its match: it takes in `SCOPE` at opcode 0x30 alone (R85). -/
theorem rowMask_eq_ite (i : Instr) :
    rowMask i = if rowMatch i >>> 56 = 0x30 then 0xFF00000000030000 else 0xFF00000000000000 := by
  cases i <;> simp [rowMask, rowMatch]

theorem rowMask_congr {i j : Instr} (h : rowMatch j = rowMatch i) : rowMask j = rowMask i := by
  rw [rowMask_eq_ite, h, ← rowMask_eq_ite]

theorem decodeTableWord_eq_some_iff (nbits w : Nat) (i : Instr) :
    decodeTableWord nbits w = some i ↔ decode (BitVec.ofNat 64 (w % 2 ^ nbits)) = .ok i := by
  unfold decodeTableWord
  split <;> simp_all

end Sys2Proof

namespace Sys2Proof.Machine

theorem assemble_of_wf {l : Source} (h : l.wf = true) (n : Nat) :
    Source.assemble n l = some (Source.expand n l) := if_pos h

theorem words_of_wf {l : Source} (h : l.wf = true) (n : Nat) :
    Source.words n l = some ((Source.expand n l).map encode) := by
  rw [Source.words, assemble_of_wf h, Option.map_some]

/-- For the pixel counts of R8 the full mask does not wrap. -/
theorem fullMask_toNat {n : Nat} (h : n ≤ 32) : (fullMask n).toNat = 2 ^ n - 1 := by
  have hn : 2 ^ n ≤ 2 ^ 32 := Nat.pow_le_pow_right (by decide) h
  rw [fullMask, BitVec.toNat_ofNat, Nat.mod_eq_of_lt (by omega)]

/-- The text before a comment is all that is read of a line (R88). -/
theorem withoutComment_append {t : Text} (h : ';' ∉ t) (comment : Text) :
    withoutComment (t ++ ';' :: comment) = withoutComment t := by
  have ht : ∀ c ∈ t, (c != ';') = true := fun c hc => bne_iff_ne.mpr fun he => h (he ▸ hc)
  rw [withoutComment, withoutComment, List.takeWhile_append_of_pos ht, List.takeWhile_eq_self_iff.mpr ht]
  simp

end Sys2Proof.Machine
end

section
/-!
The statements about the command word and the assembler (spec/30_encoding.md).
-/

namespace Sys2Proof.Machine

/-- Settles O2: the word of a command holds the command's fields, which share no bit. -/
theorem decodeOfEncodeIsTheCommand : Obligations.DecodeOfEncodeIsTheCommand := decode_encode

/-- Settles O3: the first three clauses are the decoder's one equation; the last is the choice of the row. -/
theorem unusedBitsAreIgnored : Obligations.UnusedBitsAreIgnored := by
  refine ⟨fun cw cw' i h he => ?_, encode_and_not_usedBits, fun cw i h => ((decode_eq_ok_iff cw i).mp h).symm,
    fun _ _ _ h hop hs => decode_of_row (row_in_of_same_key h hop hs)⟩
  rw [decode_eq_ok_iff] at h ⊢
  exact he.trans h

/-- Settles O4: the masked bits are the row's fields, and rows with one match have one mask. -/
theorem opcodeMapSelectsTheRow : Obligations.OpcodeMapSelectsTheRow := by
  refine fun cw i => ⟨fun h => ?_, fun ⟨j, hj, hm⟩ => ?_⟩
  · obtain ⟨j, hj, -, hm⟩ := decode_of_row ((forall_rowFields_in_iff cw i).mpr h)
    exact ⟨j, hj, hm⟩
  · rw [← rowMask_congr hm, ← hm]
    exact (forall_rowFields_in_iff cw j).mp (row_in_of_decode hj)

/-- Settles O5: the rejected words by `decode_cases`, the count by evaluation, the step as NOP's. -/
theorem reservedWordsExecuteAsNop : Obligations.ReservedWordsExecuteAsNop := by
  refine ⟨decode_error_iff, by decide +kernel, fun s cw rest hp ⟨e, he⟩ => ?_⟩
  rw [step_of_port_command hp, runCommand_of_error he]
  rfl

/-- Settles O9: the operands in range make each line well formed, so it gives its expansion. -/
theorem pseudoCommandsExpand : Obligations.PseudoCommandsExpand := by
  refine ⟨fun n _ hn f hf => ⟨fullMask n, fullMask_toNat hn, ?_⟩, fun _ => rfl, fun n m f hm hf => ?_,
    fun _ _ _ _ => ⟨rfl, rfl, rfl⟩⟩
  · exact assemble_of_wf (by simpa [Source.wf, Source.fitsByte] using hf) n
  · exact assemble_of_wf (by simpa [Source.wf, Source.fitsMask, Source.fitsByte] using ⟨hm, hf⟩) n

/-- Settles O10: the words are the encodings of the line's commands, and each decodes to its command. -/
theorem assembledWordsDecode : Obligations.AssembledWordsDecode := by
  refine fun n l hwf => ⟨_, words_of_wf hwf n, ?_⟩
  rw [List.map_map]
  exact List.map_congr_left fun i _ => decode_encode i

/-- Settles O1: the six commands encode to the words; what the words decode to is then `decode_encode`. -/
theorem workedEncodingsDecodeAndEncode : Obligations.WorkedEncodingsDecodeAndEncode := by
  intro x hx
  have henc : encode x.2 = x.1 := by
    revert x
    decide
  exact ⟨henc ▸ decode_encode x.2, henc⟩

/-- Settles O6: the step's equation for a command word, then the run of a word that decodes. -/
theorem stepRunsTheDecodedCommand : Obligations.StepRunsTheDecodedCommand := fun _ _ _ _ hp hd =>
  (step_of_port_command hp).trans (runCommand_of_ok hd _)

/-- Settles O7: the presented word is first on the port, and taking it gives the state back. -/
theorem presentedWordRunsNext : Obligations.PresentedWordRunsNext := fun s nbits w i h =>
  stepRunsTheDecodedCommand (s.withFetchWord nbits w) _ s.port i rfl ((decodeTableWord_eq_some_iff nbits w i).mp h)

/-- Settles O11: the fixed texts by evaluation; a comment is cut off before anything is read. -/
theorem assemblerTextGivesTheWords : Obligations.AssemblerTextGivesTheWords := by
  refine ⟨by decide +kernel, fun t comment h => ?_⟩
  rw [readLine, readLine, withoutComment_append h]

end Sys2Proof.Machine
end

section
/-!
SUPPORT. The pixel arithmetic by its operators: the corners of scaling, the laws of addition, the cases of mixing
(spec/40_pixel_alu.md R114 to R119). A channel equation is one of numbers; a pixel equation is one of its channels.
-/

namespace Sys2Proof

@[simp] theorem Pixel.ofPacked_zero : Pixel.ofPacked 0 = Pixel.black := rfl

end Sys2Proof

namespace Sys2Proof.Machine

/-! ### Constructors (R112) -/

/-- A packed integer comes back zero-extended (R54). -/
theorem pixelWord_ofPacked_toNat (v : BitVec 24) : (pixelWord (Pixel.ofPacked v)).toNat = v.toNat := by
  rw [pixelWord, Pixel.pack_ofPacked, BitVec.toNat_setWidth_of_le (by decide)]

/-! ### Scale (R114, R118) -/

@[simp] theorem scaleCh_zero_factor (c : Byte) : scaleCh c 0 = 0 :=
  BitVec.eq_of_toNat_eq (by simp [scaleCh_toNat])

@[simp] theorem scaleCh_zero_channel (f : Byte) : scaleCh 0 f = 0 :=
  BitVec.eq_of_toNat_eq (by simp [scaleCh_toNat])

/-- Factor 255 is one below unity: `255c = 256(c-1) + (256-c)`. -/
theorem scaleCh_255_toNat (c : Byte) : (scaleCh c 255).toNat = c.toNat - 1 := by
  have hc := c.isLt
  rw [scaleCh_toNat, show (255 : Byte).toNat = 255 from rfl]
  omega

theorem scaleCh_128_toNat (c : Byte) : (scaleCh c 128).toNat = c.toNat / 2 := by
  rw [scaleCh_toNat, show (128 : Byte).toNat = 128 from rfl]
  omega

/-- The product is at most 65025, so no scaled channel is 255. -/
theorem scaleCh_toNat_le (c f : Byte) : (scaleCh c f).toNat ≤ 254 := by
  have h : c.toNat * f.toNat ≤ 255 * 255 := Nat.mul_le_mul (Nat.le_of_lt_succ c.isLt) (Nat.le_of_lt_succ f.isLt)
  rw [scaleCh_toNat]
  omega

/-! ### Add (R115) -/

theorem addCh_comm (x y : Byte) : addCh x y = addCh y x := by
  rw [addCh, addCh, Nat.add_comm]

@[simp] theorem addCh_zero (x : Byte) : addCh x 0 = x := by
  have hx := x.isLt
  apply BitVec.eq_of_toNat_eq
  rw [addCh_toNat, show (0 : Byte).toNat = 0 from rfl]
  omega

/-- Both sides are `min 255 (x + y + z)`. -/
theorem addCh_assoc (x y z : Byte) : addCh (addCh x y) z = addCh x (addCh y z) := by
  apply BitVec.eq_of_toNat_eq
  simp only [addCh_toNat]
  omega

theorem addPx_comm (a b : Pixel) : addPx a b = addPx b a := by
  simp only [addPx, addCh_comm]

@[simp] theorem addPx_black (a : Pixel) : addPx a Pixel.black = a := by
  simp only [addPx, Pixel.black, addCh_zero]

theorem addPx_assoc (a b c : Pixel) : addPx (addPx a b) c = addPx a (addPx b c) := by
  simp only [addPx, addCh_assoc]

/-! ### Mix (R116, R119) -/

@[simp] theorem mixPx_exact_zero (a b : Pixel) : mixPx true a b 0 = a := rfl

@[simp] theorem mixPx_exact_255 (a b : Pixel) : mixPx true a b 255 = b := rfl

/-- Away from the exact ends MIX is its formula. -/
theorem mixPx_of_not_exact_end {exactEnds : Bool} {f : Byte} (h : ¬ (exactEnds = true ∧ (f = 0 ∨ f = 255)))
    (a b : Pixel) : mixPx exactEnds a b f = ⟨mixCh a.r b.r f, mixCh a.g b.g f, mixCh a.b b.b f⟩ := by
  obtain ⟨h0, h255⟩ : ¬ (exactEnds = true ∧ f = 0) ∧ ¬ (exactEnds = true ∧ f = 255) := by
    rwa [and_or_left, not_or] at h
  rw [mixPx, if_neg (by simpa using h0), if_neg (by simpa using h255)]

/-- At fraction 0 the second term of the formula is 0. -/
theorem mixCh_zero (x y : Byte) : mixCh x y 0 = scaleCh x 255 :=
  BitVec.eq_of_toNat_eq (by simp [mixCh_toNat, scaleCh_toNat])

/-- At fraction 255 the first term of the formula is 0. -/
theorem mixCh_255 (x y : Byte) : mixCh x y 255 = scaleCh y 255 :=
  BitVec.eq_of_toNat_eq (by simp [mixCh_toNat, scaleCh_toNat])

theorem mixPx_inexact_zero (a b : Pixel) : mixPx false a b 0 = scalePx a 255 := by
  rw [mixPx_of_not_exact_end (by simp)]
  simp only [scalePx, mixCh_zero]

theorem mixPx_inexact_255 (a b : Pixel) : mixPx false a b 255 = scalePx b 255 := by
  rw [mixPx_of_not_exact_end (by simp)]
  simp only [scalePx, mixCh_255]

/-! ### The commands: each answers one pixel -/

theorem exec_scale (p : Pixel) (f : Byte) (s : State) :
    exec (.scale p f) s = .next { s with resp := pixelWord (scalePx p f) } := rfl

theorem exec_add (a b : Pixel) (s : State) : exec (.add a b) s = .next { s with resp := pixelWord (addPx a b) } := rfl

theorem exec_mix (a b : Pixel) (f : Byte) (s : State) :
    exec (.mix a b f) s = .next { s with resp := pixelWord (mixPx s.inst.mixExactEnds a b f) } := rfl

end Sys2Proof.Machine
end

section
/-!
The statements about the pixel arithmetic (spec/40_pixel_alu.md).
-/

namespace Sys2Proof.Machine

/-- Settles O13: packing gives back the integer whose three bytes were taken, and those bytes are PXRGB's operands. -/
theorem pxintRespondsWithItsInteger : Obligations.PxintRespondsWithItsInteger := by
  refine fun v s => ⟨pixelWord (Pixel.ofPacked v), rfl, pixelWord_ofPacked_toNat v, rfl, ?_⟩
  rintro rfl
  rw [Pixel.ofPacked_zero]
  exact pixelWord_toNat Pixel.black

/-- Settles O15: `scale_ch` as a number, and its corners; 255 twice takes one off twice. -/
theorem scaleMultipliesAndShifts : Obligations.ScaleMultipliesAndShifts := by
  refine ⟨fun p f s => ⟨_, exec_scale p f s, ?_⟩, fun c f => ⟨scaleCh_zero_factor c, scaleCh_zero_channel f,
    scaleCh_255_toNat c, scaleCh_128_toNat c, scaleCh_toNat_le c f, ?_⟩⟩
  · simp only [IsChannelWord, pixelWord_toNat, scalePx, scaleCh_toNat]
  · rw [scaleCh_255_toNat, scaleCh_255_toNat, Nat.sub_sub]

/-- Settles O16: `add_ch` as a number, and the laws of `addPx`. -/
theorem addSaturates : Obligations.AddSaturates := by
  refine fun a b c s => ⟨⟨_, exec_add a b s, ?_⟩, ?_, addPx_black a, addPx_assoc a b c⟩
  · simp only [IsChannelWord, pixelWord_toNat, addPx, addCh_toNat]
  · rw [exec_add, exec_add, addPx_comm]

/-- Settles O17: the exact ends answer an operand; every other MIX is the formula, which at the ends is SCALE's. -/
theorem mixInterpolates : Obligations.MixInterpolates := by
  refine fun a b f s => ⟨⟨_, exec_mix a b f s, fun he hf => ?_, fun he hf => ?_, fun h => ?_⟩, fun he => ⟨?_, ?_⟩⟩
  · rw [he, hf, mixPx_exact_zero]
    exact pixelWord_toNat a
  · rw [he, hf, mixPx_exact_255]
    exact pixelWord_toNat b
  · simp only [IsChannelWord, mixPx_of_not_exact_end h, pixelWord_toNat, mixCh_toNat]
  · rw [exec_mix, exec_scale, he, mixPx_inexact_zero]
  · rw [exec_mix, exec_scale, he, mixPx_inexact_255]

/-- Settles O12: the answer is the pixel of the three operands, as a number. -/
theorem pxrgbRespondsWithItsChannels : Obligations.PxrgbRespondsWithItsChannels := fun r g b _ =>
  ⟨_, rfl, pixelWord_toNat ⟨r, g, b⟩⟩

/-- Settles O14: the answer is the table's pixel, as a number; nothing of the table is used. -/
theorem pxpalRespondsWithThePalettePixel : Obligations.PxpalRespondsWithThePalettePixel := fun cid _ =>
  ⟨_, rfl, pixelWord_toNat (Config.palette cid)⟩

end Sys2Proof.Machine
end

section
/-!
SUPPORT. The store commands as record updates, and what each leaves at a pixel or a byte (spec/41_pixel_buffer.md R130 to
R137). A single-pixel command is one pixel write; a bulk command is one function applied to every pixel.
-/

namespace Sys2Proof.Machine

/-! ### The single-pixel commands (R131 to R133) -/

theorem exec_setPx (idx : BitVec 16) (p : Pixel) (s : State) :
    exec (.setPx idx p) s =
      .next { s with work := Memory.setPixel s.work (effectiveIndex s.inst idx) p, resp := 0 } := rfl

theorem exec_getPx (idx : BitVec 16) (s : State) :
    exec (.getPx idx) s =
      .next { s with resp := pixelWord (Memory.pixel s.work (effectiveIndex s.inst idx)) } := rfl

/-- The response of GET carries the pixel read (R33, R132). -/
theorem isPixelWord_of_eq {p q : Pixel} (h : q = p) : IsPixelWord (pixelWord q) p := h ▸ pixelWord_toNat q

/-- CLR is SET with black (R133). -/
theorem exec_clrPx (idx : BitVec 16) (s : State) : exec (.clrPx idx) s = exec (.setPx idx Pixel.black) s := rfl

/-! ### The bulk commands (R134 to R136) -/

theorem exec_setAll (p : Pixel) (s : State) :
    exec (.setAll p) s = .next { s with work := (s.forWork fun _ _ => p).work, resp := 0 } := rfl

/-- CLRALL is SETALL with black (R135). -/
theorem exec_clrAll (s : State) : exec .clrAll s = exec (.setAll Pixel.black) s := rfl

theorem exec_scaleAll (f : Byte) (s : State) :
    exec (.scaleAll f) s =
      .next { s with work := (s.forWork fun m i => scalePx (Memory.pixel m i) f).work, resp := 0 } := rfl

theorem wf_forWork {s : State} (h : s.Inv) (value : Memory → Nat → Pixel) :
    Memory.wf s.inst.n (s.forWork value).work :=
  Memory.wf_forPixels h.work _ _

/-- A bulk command whose value at an index is `g` of the pixel there leaves `g` of the old pixel. -/
theorem pixel_forWork {s : State} (h : s.Inv) (g : Pixel → Pixel) {i : Nat} (hi : i < s.inst.n) :
    Memory.pixel (s.forWork fun m i => g (Memory.pixel m i)).work i = g (Memory.pixel s.work i) :=
  (Memory.pixel_forPixels h.work (fun _ => g) le_rfl i).trans (if_pos hi)

/-- SETALL leaves its operand at each index (R135). -/
theorem pixel_forWork_const {s : State} (h : s.Inv) (p : Pixel) {i : Nat} (hi : i < s.inst.n) :
    Memory.pixel (s.forWork fun _ _ => p).work i = p :=
  pixel_forWork h (fun _ => p) hi

/-! ### Scaled pixels (R114, R118) -/

theorem isScaled_scalePx (p : Pixel) (f : Byte) : IsScaled (scalePx p f) p f :=
  ⟨scaleCh_toNat p.r f, scaleCh_toNat p.g f, scaleCh_toNat p.b f⟩

@[simp] theorem scalePx_zero (p : Pixel) : scalePx p 0 = Pixel.black := by
  simp only [scalePx, scaleCh_zero_factor, Pixel.black]

/-- SCALEALL 0 is CLRALL (R136). -/
theorem exec_scaleAll_zero (s : State) : exec (.scaleAll 0) s = exec .clrAll s := by
  simp only [exec_scaleAll, exec_clrAll, exec_setAll, scalePx_zero]

/-- Factor 255 takes one off each channel that is not 0, so as many turns as the largest channel leave black (R118). -/
theorem iterate_scalePx_255_eq_black {k : Nat} {p : Pixel} (hr : p.r.toNat ≤ k) (hg : p.g.toNat ≤ k)
    (hb : p.b.toNat ≤ k) : (fun p => scalePx p 255)^[k] p = Pixel.black := by
  induction k generalizing p with
  | zero =>
    have hzero : ∀ {c : Byte}, c.toNat ≤ 0 → c = 0 := fun hc => BitVec.eq_of_toNat_eq (Nat.le_zero.mp hc)
    calc p = ⟨p.r, p.g, p.b⟩ := rfl
      _ = Pixel.black := by rw [hzero hr, hzero hg, hzero hb, Pixel.black]
  | succ k ih =>
    have hstep : ∀ {c : Byte}, c.toNat ≤ k + 1 → (scaleCh c 255).toNat ≤ k := fun hc => by
      rw [scaleCh_255_toNat]; omega
    rw [Function.iterate_succ_apply]
    exact ih (hstep hr) (hstep hg) (hstep hb)

/-- `k` SCALEALL in a row complete and scale each pixel `k` times (R136). -/
theorem execAll_replicate_scaleAll (f : Byte) (k : Nat) {s : State} (h : s.Inv) :
    ∃ t, execAll (List.replicate k (.scaleAll f)) s = .next t ∧
      ∀ i, i < s.inst.n → Memory.pixel t.work i = (fun p => scalePx p f)^[k] (Memory.pixel s.work i) := by
  induction k generalizing s with
  | zero => exact ⟨s, rfl, fun _ _ => rfl⟩
  | succ k ih =>
    have hx := exec_scaleAll f s
    obtain ⟨t, ht, hpx⟩ := ih ((exec_frame hx).inv h)
    refine ⟨t, (execAll_cons_of_next hx _).trans ht, fun i hi => ?_⟩
    rw [hpx i hi, pixel_forWork h (fun p => scalePx p f) hi, Function.iterate_succ_apply]

/-! ### The published store (R137) -/

theorem exec_copyOut_eq (mask : Word) (f : Byte) (s : State) :
    exec (.copyOut mask f) s = .next { s with out := (s.publish mask f).out, resp := 0 } := rfl

theorem publishedPixel_of_set {mask : Word} {i : Nat} (h : mask.getLsbD i = true) (work : Memory) (f : Byte) :
    publishedPixel work mask f i = scalePx (Memory.pixel work i) f := if_pos h

theorem publishedPixel_of_clear {mask : Word} {i : Nat} (h : mask.getLsbD i = false) (work : Memory) (f : Byte) :
    publishedPixel work mask f i = Pixel.black := if_neg (by simp [maskBit, h])

/-- A published pixel reads the mask at its own index alone. -/
theorem publishedPixel_congr {mask mask' : Word} {i : Nat} (h : mask'.getLsbD i = mask.getLsbD i) (work : Memory)
    (f : Byte) : publishedPixel work mask' f i = publishedPixel work mask f i := by
  rw [publishedPixel, publishedPixel, maskBit, maskBit, h]

/-- Brightness 0 publishes black, whatever the mask. -/
theorem publishedPixel_zero (work : Memory) (mask : Word) (i : Nat) : publishedPixel work mask 0 i = Pixel.black := by
  rw [publishedPixel, scalePx_zero, ite_self]

/-- The published store is the same from any earlier `OUT` and from any mask with the same low `N` bits. -/
theorem publish_out_congr {s : State} (h : s.Inv) {mask mask' : Word} (f : Byte) {out' : Memory}
    (hout : Memory.wf s.inst.n out') (hm : ∀ i, i < s.inst.n → mask'.getLsbD i = mask.getLsbD i) :
    (State.publish { s with out := out' } mask' f).out = (s.publish mask f).out := by
  have h' : State.Inv { s with out := out' } := { h with out := hout }
  refine Memory.ext_pixel (Memory.wf_forPixels hout _ _) (Memory.wf_forPixels h.out _ _) fun i hi => ?_
  rw [pixel_publish h mask f hi, pixel_publish h' mask' f hi]
  exact publishedPixel_congr (hm i hi) s.work f

/-- No channel of a published pixel is 255: it is scaled or 0 (R118). -/
theorem publishedPixel_channels_le (work : Memory) (mask : Word) (f : Byte) (i : Nat) :
    (publishedPixel work mask f i).r.toNat ≤ 254 ∧ (publishedPixel work mask f i).g.toNat ≤ 254 ∧
      (publishedPixel work mask f i).b.toNat ≤ 254 := by
  rw [publishedPixel]
  split
  · exact ⟨scaleCh_toNat_le _ _, scaleCh_toNat_le _ _, scaleCh_toNat_le _ _⟩
  · decide

/-! ### Bytes by pixels (R52) -/

/-- What holds of every channel of the pixels below `n` holds of every byte below `3n`. -/
theorem forall_byteAt_of_forall_pixel {n : Nat} {m : Memory} {P : Byte → Prop}
    (h : ∀ i, i < n → P (Memory.pixel m i).r ∧ P (Memory.pixel m i).g ∧ P (Memory.pixel m i).b) {a : Nat}
    (ha : a < 3 * n) : P (Memory.byteAt m a) := by
  obtain ⟨hr, hg, hb⟩ := h (a / 3) (by omega)
  rw [Memory.byteAt_eq_channel]
  split
  · exact hg
  · split
    · exact hr
    · exact hb

end Sys2Proof.Machine
end

section
/-!
The statements about the pixel stores (spec/41_pixel_buffer.md).
-/

namespace Sys2Proof.Machine

/-- Settles O19: the effective index is real, so SET is one pixel write: its three bytes, and no byte outside them. -/
theorem setWritesOnePixel : Obligations.SetWritesOnePixel := by
  intro idx p s hs
  obtain ⟨hg, hr, hb⟩ := Memory.byteAt_setPixel_bytes hs.work (effectiveIndex_lt hs.legal idx) p
  exact ⟨_, exec_setPx idx p s, Memory.wf_setPixel hs.work _ p, hg, hr, hb,
    fun _ ha => Memory.byteAt_setPixel_of_outside s.work _ p ha⟩

/-- Settles O21: GET reads the pixel SET wrote where the effective indices agree, and another pixel where they do not. -/
theorem getAfterSet : Obligations.GetAfterSet := by
  intro idx idx' p s hs
  refine ⟨_, _, (execAll_cons_of_next (exec_setPx idx p s) _).trans (execAll_cons_of_next (exec_getPx idx' _) _), rfl,
    fun he => ?_, fun hne => ?_⟩
  · exact isPixelWord_of_eq
      ((congrArg (Memory.pixel _) he).trans (Memory.pixel_setPixel_self hs.work (effectiveIndex_lt hs.legal idx) p))
  · exact isPixelWord_of_eq (Memory.pixel_setPixel_of_ne s.work p hne)

/-- Settles O23: CLR is SET with black, whose three bytes are the three that SET writes. -/
theorem clrBlacksOnePixel : Obligations.ClrBlacksOnePixel := by
  intro idx s hs
  obtain ⟨m, hx, hwf, hg, hr, hb, hout⟩ := setWritesOnePixel idx Pixel.black s hs
  refine ⟨⟨m, (exec_clrPx idx s).trans hx, hwf, fun a hlo hhi => ?_, hout⟩, exec_clrPx idx s⟩
  obtain rfl | rfl | rfl : a = 3 * (idx.toNat % s.inst.n) ∨ a = 3 * (idx.toNat % s.inst.n) + 1 ∨
      a = 3 * (idx.toNat % s.inst.n) + 2 := by omega
  · exact hg
  · exact hr
  · exact hb

/-- Settles O25: the loop's value is the operand at every index; with black it is CLRALL's loop. -/
theorem setAllFillsTheWorkingStore : Obligations.SetAllFillsTheWorkingStore := fun p s hs =>
  ⟨⟨_, exec_setAll p s, wf_forWork hs _, fun _ hi => pixel_forWork_const hs p hi⟩, (exec_clrAll s).symm⟩

/-- Settles O24: CLRALL is SETALL with black. -/
theorem clrAllBlacksTheWorkingStore : Obligations.ClrAllBlacksTheWorkingStore := by
  intro s hs
  obtain ⟨hfill, hclr⟩ := setAllFillsTheWorkingStore Pixel.black s hs
  rwa [hclr] at hfill

/-- Settles O26: no turn of the loop reads a pixel that an earlier turn wrote. -/
theorem scaleAllScalesEveryPixel : Obligations.ScaleAllScalesEveryPixel := by
  refine fun f s hs => ⟨⟨_, exec_scaleAll f s, wf_forWork hs _, fun i hi => ?_⟩, exec_scaleAll_zero s⟩
  rw [pixel_forWork hs (fun p => scalePx p f) hi]
  exact isScaled_scalePx _ f

/-- Settles O27: each SCALEALL 255 takes one off every channel above 0, and no channel is above 255. -/
theorem repeatedScaleAllFadesToBlack : Obligations.RepeatedScaleAllFadesToBlack := by
  intro s hs
  obtain ⟨t, ht, hpx⟩ := execAll_replicate_scaleAll 255 255 hs
  have hbyte : ∀ c : Byte, c.toNat ≤ 255 := fun c => Nat.le_of_lt_succ c.isLt
  exact ⟨t, ht, fun i hi => (hpx i hi).trans (iterate_scalePx_255_eq_black (hbyte _) (hbyte _) (hbyte _))⟩

/-- Settles O28: every pixel of `OUT` is the published one, which reads `WORK`, the brightness and its own mask bit. -/
theorem copyOutPublishesUnderTheMask : Obligations.CopyOutPublishesUnderTheMask := by
  intro mask f s hs
  refine ⟨_, exec_copyOut_eq mask f s, Memory.wf_forPixels hs.out _ _, fun i hi => ⟨fun hset => ?_, fun hclear => ?_⟩,
    fun a ha => ?_, fun mask' out' hout hm => ?_⟩
  · rw [pixel_publish hs mask f hi, publishedPixel_of_set hset]
    exact isScaled_scalePx _ f
  · rw [pixel_publish hs mask f hi, publishedPixel_of_clear hclear]
  · refine forall_byteAt_of_forall_pixel (P := fun c => c.toNat ≤ 254) (fun i hi => ?_) ha
    rw [pixel_publish hs mask f hi]
    exact publishedPixel_channels_le s.work mask f i
  · rw [exec_copyOut_eq, publish_out_congr hs f hout hm]

/-- Settles O29: with no mask bit or no brightness every published pixel is black, so every byte is 0. -/
theorem copyOutOfNothingIsBlack : Obligations.CopyOutOfNothingIsBlack := by
  intro mask f s hs hnothing
  have hblack : ∀ i, i < s.inst.n → publishedPixel s.work mask f i = Pixel.black := by
    intro i hi
    obtain rfl | hclear := hnothing
    · exact publishedPixel_zero s.work mask i
    · exact publishedPixel_of_clear (hclear i hi) s.work f
  refine ⟨_, exec_copyOut_eq mask f s, fun a ha => forall_byteAt_of_forall_pixel (P := (· = 0)) (fun i hi => ?_) ha⟩
  rw [pixel_publish hs mask f hi, hblack i hi]
  exact ⟨rfl, rfl, rfl⟩

/-- Settles O18: NOP's word is 0, so 0 decodes to NOP; its meaning is the response 0 alone. -/
theorem nopOnlyClearsResp : Obligations.NopOnlyClearsResp := ⟨decode_encode .nop, rfl, fun _ => rfl⟩

/-- Settles O20: the answer is the working pixel, as a number. -/
theorem getReadsOnePixel : Obligations.GetReadsOnePixel := fun idx s =>
  ⟨_, exec_getPx idx s, isPixelWord_of_eq rfl⟩

end Sys2Proof.Machine
end

section
/-!
SUPPORT. The rotation transform as list rotation (spec/42_rotate.md R150 to R160): the indices a derived sequence names,
and the one relation between the stores before and after that every loop of a rotation keeps.
-/

namespace Sys2Proof.Machine

/-! ### The index mapper (R150 to R153) -/

theorem mem_derivedSeq {p : Instance} {sc : Scope} {i : Nat} :
    i ∈ derivedSeq p sc ↔ ∃ j, j < maxl p sc ∧ idxXform p sc j = i := by
  simp only [derivedSeq, List.mem_map, List.mem_range]

theorem length_derivedSeq (p : Instance) (sc : Scope) : (derivedSeq p sc).length = maxl p sc := by
  simp [derivedSeq]

theorem derivedSeq_all (p : Instance) : derivedSeq p .all = List.range p.n := List.map_id' _

theorem nodup_derivedSeq {p : Instance} (h : p.Legal) (sc : Scope) : (derivedSeq p sc).Nodup :=
  List.Nodup.map (fun _ _ he => idxXform_injective h sc he) List.nodup_range

/-- The indices a ring names: those of the six leaves at the ring's places. The position of index `i` is read off its leaf
`i / 5` and its place `i % 5`. -/
theorem exists_ringIndex_eq_iff {lo cnt : Nat} (hc : 0 < cnt) (hl : lo + cnt ≤ 5) (i : Nat) :
    (∃ j, j < 6 * cnt ∧ ringIndex lo cnt j = i) ↔ i < 30 ∧ lo ≤ i % 5 ∧ i % 5 < lo + cnt := by
  constructor
  · rintro ⟨j, hj, rfl⟩
    have hplace := Nat.mod_lt j hc
    refine ⟨ringIndex_lt hc hl hj, ?_⟩
    simp only [ringIndex, Config.leafLen]
    omega
  · rintro ⟨hi, hlo, hhi⟩
    have hplace : i % 5 - lo < cnt := by omega
    have hleaf : cnt * (i / 5) ≤ cnt * 5 := Nat.mul_le_mul_left cnt (by omega)
    refine ⟨cnt * (i / 5) + (i % 5 - lo), by omega, ?_⟩
    rw [ringIndex, Nat.mul_add_div hc, Nat.div_eq_of_lt hplace, Nat.mul_add_mod, Nat.mod_eq_of_lt hplace, Config.leafLen]
    omega

/-! ### The shift of a rotation (R155) -/

/-- How many positions further on a position finds its new pixel after `c` steps along `len` positions. -/
def rotShift (dir : Dir) (len c : Nat) : Nat :=
  match dir with
  | .up => c * (len - 1)
  | .down => c

theorem rotShift_zero (dir : Dir) (len : Nat) : rotShift dir len 0 = 0 := by
  cases dir with
  | up => exact Nat.zero_mul _
  | down => rfl

theorem rotShift_succ (dir : Dir) (len c : Nat) : rotShift dir len (c + 1) = rotShift dir len 1 + rotShift dir len c := by
  cases dir with
  | up => simp only [rotShift, Nat.add_mul, Nat.one_mul, Nat.add_comm]
  | down => exact Nat.add_comm c 1

theorem dvd_rotShift {len c : Nat} (h : len ∣ c) (dir : Dir) : len ∣ rotShift dir len c := by
  cases dir with
  | up => exact h.mul_right _
  | down => exact h

/-- Steps one way and as many the other way make whole turns. -/
theorem rotShift_add_back {dir back : Dir} (h : dir = .up ∧ back = .down ∨ dir = .down ∧ back = .up) {len : Nat}
    (hl : 0 < len) (c : Nat) : rotShift dir len c + rotShift back len c = c * len := by
  have hsum : c * (len - 1) + c = c * len := by rw [← Nat.mul_succ, Nat.succ_eq_add_one, Nat.sub_add_cancel hl]
  obtain ⟨rfl, rfl⟩ | ⟨rfl, rfl⟩ := h
  · exact hsum
  · exact (Nat.add_comm _ _).trans hsum

/-! ### The loops of a single step (R154) -/

section Step

variable {n len : Nat} {q : Nat → Nat} (hq : ∀ {j k}, q j = q k → j = k) (hn : ∀ {j}, j < len → q j < n)

include hq hn

theorem pixel_setPixel_position {m : Memory} (h : Memory.wf n m) {d : Nat} (hd : d < len) (p : Pixel) (i : Nat) :
    Memory.pixel (Memory.setPixel m (q d) p) (q i) = if i = d then p else Memory.pixel m (q i) := by
  have hiff : q i = q d ↔ i = d := ⟨hq, congrArg q⟩
  simp only [Memory.pixel_setPixel h (hn hd), hiff]

/-- The loop of an UP step: positions 1 to `k` have taken over the pixel one position lower. -/
theorem pixel_foldl_countdown (k : Nat) {s : State} (h : Memory.wf n s.work) (hk : k < len) (i : Nat) :
    Memory.pixel ((countdown k).foldl (fun t j => State.shiftPixel t j (q j) (q (j - 1))) s).work (q i) =
      if 0 < i ∧ i ≤ k then Memory.pixel s.work (q (i - 1)) else Memory.pixel s.work (q i) := by
  induction k generalizing s with
  | zero => rw [if_neg (by omega)]; rfl
  | succ k ih =>
    rw [countdown, List.foldl_cons, ih (Memory.wf_setPixel h _ _) (by omega)]
    simp only [State.shiftPixel_work, pixel_setPixel_position hq hn h hk, Nat.add_sub_cancel]
    by_cases hi : i = k + 1
    · simp [hi]
    · have hlt : i ≤ k + 1 ↔ i ≤ k := by omega
      by_cases hpos : 0 < i ∧ i ≤ k
      · have hne : i - 1 ≠ k + 1 := by omega
        simp [hlt, hpos, hne]
      · simp [hi, hlt, hpos]

/-- The loop of a DOWN step: positions below `k` have taken over the pixel one position higher. -/
theorem pixel_foldl_range (k : Nat) {s : State} (h : Memory.wf n s.work) (hk : k < len) (i : Nat) :
    Memory.pixel ((List.range k).foldl (fun t j => State.shiftPixel t j (q j) (q (j + 1))) s).work (q i) =
      if i < k then Memory.pixel s.work (q (i + 1)) else Memory.pixel s.work (q i) := by
  induction k generalizing i with
  | zero => rfl
  | succ k ih =>
    have hw := wf_foldl_shiftPixel q (fun j => q (j + 1)) (List.range k) h
    rw [List.range_succ, List.foldl_append, List.foldl_cons, List.foldl_nil, State.shiftPixel_work,
      pixel_setPixel_position hq hn hw (by omega), ih (by omega), ih (by omega)]
    by_cases hi : i = k
    · simp [hi]
    · have hlt : i < k + 1 ↔ i < k := by omega
      simp [hi, hlt]

/-- A step moves every pixel of the sequence by one position; the saved pixel closes the cycle. -/
theorem pixel_rotStep (dir : Dir) {s : State} (h : Memory.wf n s.work) {i : Nat} (hi : i < len) :
    Memory.pixel (rotStep dir q len s).work (q i) = Memory.pixel s.work (q ((i + rotShift dir len 1) % len)) := by
  cases dir with
  | up =>
    have hw := wf_foldl_shiftPixel q (fun j => q (j - 1)) (countdown (len - 1)) (s := s.savePixel (q (len - 1))) h
    rw [rotStep, rotStepUp, State.restorePixel_work, pixel_setPixel_position hq hn hw (by omega),
      pixel_foldl_countdown hq hn (len - 1) (s := s.savePixel _) h (by omega), foldl_shiftPixel_eq q fun j => q (j - 1)]
    simp only [rotShift, Nat.one_mul]
    obtain rfl | hpos := Nat.eq_zero_or_pos i
    · rw [if_pos rfl, Nat.zero_add, Nat.mod_eq_of_lt (by omega)]; rfl
    · have hsum : i + (len - 1) = i - 1 + len := by omega
      rw [if_neg (by omega), if_pos ⟨hpos, by omega⟩, hsum, Nat.add_mod_right, Nat.mod_eq_of_lt (by omega)]; rfl
  | down =>
    have hw := wf_foldl_shiftPixel q (fun j => q (j + 1)) (List.range (len - 1)) (s := s.savePixel (q 0)) h
    rw [rotStep, rotStepDown, State.restorePixel_work, pixel_setPixel_position hq hn hw (by omega),
      pixel_foldl_range hq hn (len - 1) (s := s.savePixel _) h (by omega), foldl_shiftPixel_eq q fun j => q (j + 1)]
    simp only [rotShift]
    by_cases hlast : i = len - 1
    · have hsum : i + 1 = len := by omega
      rw [if_pos hlast, hsum, Nat.mod_self]; rfl
    · rw [if_neg hlast, if_pos (by omega), Nat.mod_eq_of_lt (by omega)]; rfl

end Step

/-! ### What a rotation leaves (R155 to R160) -/

/-- A rotated list of pixels, position by position. -/
theorem map_pixel_eq_rotate_iff {p : Instance} {sc : Scope} {k : Nat} {m m' : Memory} :
    (derivedSeq p sc).map (Memory.pixel m') = ((derivedSeq p sc).map (Memory.pixel m)).rotate k ↔
      ∀ j, j < maxl p sc →
        Memory.pixel m' (idxXform p sc j) = Memory.pixel m (idxXform p sc ((j + k) % maxl p sc)) := by
  simp [List.ext_getElem_iff, derivedSeq, List.getElem_rotate]

/-- `m'` is `m` with the pixels along a derived sequence rotated: position `j` holds what position `j + k` held, taken
modulo the length; every byte outside the sequence is as it was. -/
structure Turned (p : Instance) (sc : Scope) (k : Nat) (m m' : Memory) : Prop where
  form : Memory.wf p.n m'
  pixels : (derivedSeq p sc).map (Memory.pixel m') = ((derivedSeq p sc).map (Memory.pixel m)).rotate k
  outside : ∀ a, a / 3 ∉ derivedSeq p sc → Memory.byteAt m' a = Memory.byteAt m a

namespace Turned

variable {p : Instance} {sc : Scope} {k l : Nat} {m m' m'' : Memory}

theorem refl (h : Memory.wf p.n m) : Turned p sc 0 m m := ⟨h, (List.rotate_zero _).symm, fun _ _ => rfl⟩

theorem trans (h : Turned p sc k m m') (h' : Turned p sc l m' m'') : Turned p sc (k + l) m m'' where
  form := h'.form
  pixels := by rw [h'.pixels, h.pixels, List.rotate_rotate]
  outside a ha := (h'.outside a ha).trans (h.outside a ha)

/-- The pixel at a position of the sequence. -/
theorem pixel_position (h : Turned p sc k m m') {j : Nat} (hj : j < maxl p sc) :
    Memory.pixel m' (idxXform p sc j) = Memory.pixel m (idxXform p sc ((j + k) % maxl p sc)) :=
  map_pixel_eq_rotate_iff.mp h.pixels j hj

/-- The pixel that `c` steps up bring to a position. -/
theorem pixel_position_up {c : Nat} (h : Turned p sc (rotShift .up (maxl p sc) c) m m') {j : Nat} (hj : j < maxl p sc) :
    Memory.pixel m' (idxXform p sc ((j + c) % maxl p sc)) = Memory.pixel m (idxXform p sc j) := by
  have hl : 0 < maxl p sc := by omega
  have hturns : j + c + rotShift .up (maxl p sc) c = j + c * maxl p sc := by
    rw [← rotShift_add_back (.inr ⟨rfl, rfl⟩) hl c, Nat.add_assoc]; rfl
  rw [h.pixel_position (Nat.mod_lt _ hl), Nat.mod_add_mod, hturns, Nat.add_mul_mod_self_right, Nat.mod_eq_of_lt hj]

/-- A pixel outside the sequence. -/
theorem pixel_outside (h : Turned p sc k m m') {i : Nat} (hi : i ∉ derivedSeq p sc) :
    Memory.pixel m' i = Memory.pixel m i := by
  have hbyte : ∀ b, b < 3 → Memory.byteAt m' (pixelAddr i + b) = Memory.byteAt m (pixelAddr i + b) := by
    intro b hb
    have hindex : (pixelAddr i + b) / 3 = i := by rw [pixelAddr]; omega
    exact h.outside _ (by rwa [hindex])
  have h0 := hbyte 0 (by omega)
  rw [Nat.add_zero] at h0
  rw [Memory.pixel, Memory.pixel, h0, hbyte 1 (by omega), hbyte 2 (by omega)]

/-- Whole turns leave the store as it was. -/
theorem eq_of_dvd (h : Turned p sc k m m') (hm : Memory.wf p.n m) (hk : maxl p sc ∣ k) : m' = m := by
  have hsame : (derivedSeq p sc).map (Memory.pixel m') = (derivedSeq p sc).map (Memory.pixel m) := by
    have hlen : ((derivedSeq p sc).map (Memory.pixel m)).length = maxl p sc := by rw [List.length_map, length_derivedSeq]
    rw [h.pixels, ← List.rotate_mod, hlen, Nat.mod_eq_zero_of_dvd hk, List.rotate_zero]
  refine Memory.ext_pixel h.form hm fun i _ => ?_
  by_cases hi : i ∈ derivedSeq p sc
  · exact List.map_inj_left.mp hsame i hi
  · exact h.pixel_outside hi

end Turned

/-- One step turns its sequence by one position (R154). -/
theorem turned_rotStep {p : Instance} (hp : p.Legal) (sc : Scope) (dir : Dir) {s : State} (h : Memory.wf p.n s.work) :
    Turned p sc (rotShift dir (maxl p sc) 1) s.work (rotStep dir (idxXform p sc) (maxl p sc) s).work where
  form := wf_rotStep dir _ _ h
  pixels := map_pixel_eq_rotate_iff.mpr fun _ hj =>
    pixel_rotStep (idxXform_injective hp sc) (idxXform_lt hp sc) dir h hj
  outside _ ha := byteAt_rotStep dir (maxl_pos hp sc) s fun j hj he => ha (mem_derivedSeq.mpr ⟨j, hj, he.symm⟩)

/-- `c` steps turn it by `c` positions (R155, by induction on the count). -/
theorem turned_rotLoop {p : Instance} (hp : p.Legal) (sc : Scope) (dir : Dir) (c : Nat) {s : State}
    (h : Memory.wf p.n s.work) :
    Turned p sc (rotShift dir (maxl p sc) c) s.work (rotLoop dir (idxXform p sc) (maxl p sc) c s).work := by
  induction c generalizing s with
  | zero => rw [rotShift_zero]; exact .refl h
  | succ c ih =>
    have hstep := turned_rotStep hp sc dir (s := { s with rotLeft := BitVec.ofNat 8 (c + 1) }) h
    rw [rotShift_succ]
    exact hstep.trans (ih hstep.form)

/-! ### The commands (R156 to R158) -/

theorem turned_rotate {s : State} (hs : s.Inv) (sc : Scope) (dir : Dir) (cnt : Byte) :
    Turned s.inst sc (rotShift dir (maxl s.inst sc) cnt.toNat) s.work (rotate sc dir cnt s).work :=
  turned_rotLoop hs.legal sc dir cnt.toNat hs.work

theorem eq_rotInstr {i : Instr} {sc : Scope} {dir : Dir} {cnt : Byte}
    (h : i = .rotInner dir cnt ∧ sc = .inner ∨ i = .rotOuter dir cnt ∧ sc = .outer ∨ i = .rotAll dir cnt ∧ sc = .all) :
    i = rotInstr sc dir cnt := by
  obtain ⟨rfl, rfl⟩ | ⟨rfl, rfl⟩ | ⟨rfl, rfl⟩ := h <;> rfl

/-- A rotation command completes and turns its sequence. -/
theorem exec_rotInstr_turned {s : State} (hs : s.Inv) (sc : Scope) (dir : Dir) (cnt : Byte) :
    ∃ t, exec (rotInstr sc dir cnt) s = .next t ∧
      Turned s.inst sc (rotShift dir (maxl s.inst sc) cnt.toNat) s.work t.work :=
  ⟨_, exec_rotInstr sc dir cnt s, turned_rotate hs sc dir cnt⟩

/-- There and back: the two shifts make whole turns. -/
theorem execAll_rotInstr_back {s : State} (hs : s.Inv) (sc : Scope) {dir back : Dir} (cnt : Byte)
    (h : dir = .up ∧ back = .down ∨ dir = .down ∧ back = .up) :
    ∃ t, execAll [rotInstr sc dir cnt, rotInstr sc back cnt] s = .next t ∧ t.work = s.work := by
  obtain ⟨u, hu, hturn⟩ := exec_rotInstr_turned hs sc dir cnt
  have hframe := exec_frame hu
  obtain ⟨t, ht, hback⟩ := exec_rotInstr_turned (hframe.inv hs) sc back cnt
  rw [hframe.inst_eq] at hback
  refine ⟨t, (execAll_cons_of_next hu _).trans (execAll_cons_of_next ht _), (hturn.trans hback).eq_of_dvd hs.work ?_⟩
  rw [rotShift_add_back h (maxl_pos hs.legal sc)]
  exact Nat.dvd_mul_left _ _

/-- A count of whole turns changes nothing of `WORK`. -/
theorem exec_rotInstr_period {s : State} (hs : s.Inv) (sc : Scope) (dir : Dir) {cnt : Byte}
    (h : cnt.toNat % maxl s.inst sc = 0) : ∃ t, exec (rotInstr sc dir cnt) s = .next t ∧ t.work = s.work := by
  obtain ⟨t, ht, hturn⟩ := exec_rotInstr_turned hs sc dir cnt
  exact ⟨t, ht, hturn.eq_of_dvd hs.work (dvd_rotShift (Nat.dvd_of_mod_eq_zero h) dir)⟩

end Sys2Proof.Machine
end

section
/-!
The statements about the rotation transform (spec/42_rotate.md).
-/

namespace Sys2Proof.Machine

/-- Settles O30: `idx_xform` is injective into the real indices, and an index of a ring is named by its leaf and place. -/
theorem idxXformIsABijectionOntoItsScope : Obligations.IdxXformIsABijectionOntoItsScope := by
  refine ⟨fun p hp => ⟨fun sc => ⟨nodup_derivedSeq hp sc, length_derivedSeq p sc, fun i hi => ?_⟩, fun i => ?_, fun i => ?_,
    fun i => ?_⟩, by decide, by decide, derivedSeq_all⟩
  · obtain ⟨j, hj, rfl⟩ := mem_derivedSeq.mp hi
    exact idxXform_lt hp sc hj
  · obtain ⟨-, -, hpos, hleaf, -⟩ := hp
    exact mem_derivedSeq.trans (exists_ringIndex_eq_iff hpos hleaf i)
  · obtain ⟨-, -, -, -, hpos, hleaf, -⟩ := hp
    exact mem_derivedSeq.trans (exists_ringIndex_eq_iff hpos hleaf i)
  · rw [derivedSeq_all, List.mem_range]

/-- Settles O31: one step turns the sequence by one position and writes nothing outside it. -/
theorem singleStepShiftsByOne : Obligations.SingleStepShiftsByOne := by
  intro s sc hs
  have hturn := fun dir => turned_rotStep hs.legal sc dir hs.work
  exact ⟨fun j hj => ⟨(hturn .up).pixel_position_up hj, (hturn .down).pixel_position hj⟩,
    fun dir i hi => (hturn dir).pixel_outside hi⟩

/-- Settles O32: `c` steps turn the sequence by `c` positions, read in either direction. -/
theorem rotationNetEffect : Obligations.RotationNetEffect := by
  intro i sc dir cnt s hs hi
  obtain ⟨t, ht, hturn⟩ := exec_rotInstr_turned hs sc dir cnt
  refine ⟨t, eq_rotInstr hi ▸ ht, fun j hj => ⟨?_, ?_⟩⟩
  · rintro rfl
    exact hturn.pixel_position_up hj
  · rintro rfl
    exact hturn.pixel_position hj

/-- Settles O33: the loops write `WORK` along the sequence and the rotation's scratch registers, and no other element. -/
theorem rotationFrame : Obligations.RotationFrame := by
  intro i sc dir cnt s hs hi
  have hturn := turned_rotate hs sc dir cnt
  rw [eq_rotInstr hi, exec_rotInstr, rotate_eq]
  exact ⟨_, _, _, rfl, hturn.form, hturn.outside⟩

/-- Settles O34: a rotated list is a permutation of the list. -/
theorem rotationKeepsTheMultiset : Obligations.RotationKeepsTheMultiset := by
  intro i sc dir cnt s hs hi
  obtain ⟨t, ht, hturn⟩ := exec_rotInstr_turned hs sc dir cnt
  exact ⟨t, eq_rotInstr hi ▸ ht, hturn.pixels ▸ List.rotate_perm _ _⟩

/-- Settles O35: both are whole turns of the sequence. -/
theorem rotationInverseAndPeriod : Obligations.RotationInverseAndPeriod := by
  intro s cnt dir back hs h
  exact ⟨execAll_rotInstr_back hs .inner cnt h, execAll_rotInstr_back hs .outer cnt h, execAll_rotInstr_back hs .all cnt h,
    exec_rotInstr_period hs .inner dir, exec_rotInstr_period hs .outer dir, exec_rotInstr_period hs .all dir⟩

end Sys2Proof.Machine
end

section
/-!
SUPPORT. SHOW's loop up to a symbol, and where a tick falls on the waveform of a frame and of a run of frames
(spec/43_serial_driver.md R171 to R177).
-/

namespace Sys2Proof.Machine

/-! ### SHOW's loop up to a symbol (R171, R175) -/

/-- After `k` symbols the frame so far is the first `k` symbols of the frame of `OUT`'s pixels. -/
theorem showProgress_frame {s : State} {k : Nat} (hk : k ≤ 24 * s.inst.n) :
    (showProgress k s).2 = (List.range k).map (wireSymbol (Memory.pixel s.out)) := by
  have hpos : (txSchedule s.inst.n).take k = (List.range k).map txPosition := by
    rw [txSchedule_eq_map_txPosition, ← List.map_take, List.take_range, Nat.min_eq_left hk]
  rw [showProgress, foldl_emitAt_frame, hpos, List.nil_append, List.map_map]
  exact List.map_congr_left fun i _ => symbolAt_txPosition s i

/-- No turn of the loop touches what the critical section set at its start. -/
theorem showProgress_critical (k : Nat) (s : State) :
    (showProgress k s).1.ie = false ∧ (showProgress k s).1.txact = true ∧ (showProgress k s).1.ieSaved = s.ie := by
  rw [showProgress, foldl_emitAt_state]
  exact ⟨rfl, rfl, rfl⟩

/-- The loop is over after all the frame's symbols. -/
theorem showProgress_all (s : State) : showProgress (24 * s.inst.n) s = showLoop s := by
  rw [showProgress, ← txSchedule_length, List.take_length, showLoop]

/-! ### The waveform of a frame (R172, R174) -/

/-- A period is high up to the end of its high phase and low after it. -/
theorem getElem?_bitWave {t : Timing} (bit : Bool) {x : Nat} (hx : x < t.tbit) :
    (bitWave t bit)[x]? = some (decide (x < if bit then t.t1h else t.t0h)) := by
  rw [bitWave]
  by_cases hhigh : x < if bit then t.t1h else t.t0h
  · rw [List.getElem?_append_left (by rwa [List.length_replicate]), List.getElem?_replicate_of_lt hhigh,
      decide_eq_true hhigh]
  · have hlow := Nat.not_lt.mp hhigh
    rw [List.getElem?_append_right (by rwa [List.length_replicate]), List.length_replicate,
      List.getElem?_replicate_of_lt (Nat.sub_lt_sub_right hlow hx), decide_eq_false hhigh]

/-- The next period follows at once (R172). -/
theorem frameWave_cons (t : Timing) (bit : Bool) (f : Frame) :
    frameWave t (bit :: f) = bitWave t bit ++ frameWave t f := List.flatMap_cons

section Legal

variable {t : Timing} (ht : t.Legal)
include ht

/-- The high phase of either bit fits in the period. -/
theorem high_le_tbit (bit : Bool) : (if bit then t.t1h else t.t0h) ≤ t.tbit := by
  obtain ⟨-, h01, h1b, -⟩ := ht
  cases bit with
  | false => exact (h01.trans h1b).le
  | true => exact h1b.le

theorem length_bitWave (bit : Bool) : (bitWave t bit).length = t.tbit := by
  rw [bitWave, List.length_append, List.length_replicate, List.length_replicate,
    Nat.add_sub_cancel' (high_le_tbit ht bit)]

theorem length_frameWave (f : Frame) : (frameWave t f).length = f.length * t.tbit := by
  induction f with
  | nil => exact (Nat.zero_mul _).symm
  | cons bit f ih =>
    rw [frameWave_cons, List.length_append, length_bitWave ht, ih, List.length_cons, Nat.succ_mul, Nat.add_comm]

/-- Tick `x` of period `k` of a frame is tick `x` of its symbol `k`. -/
theorem getElem?_frameWave {f : Frame} {k : Nat} {bit : Bool} (hk : f[k]? = some bit) {x : Nat} (hx : x < t.tbit) :
    (frameWave t f)[k * t.tbit + x]? = (bitWave t bit)[x]? := by
  induction f generalizing k with
  | nil => simp at hk
  | cons b f ih =>
    rw [frameWave_cons]
    cases k with
    | zero =>
      obtain rfl : b = bit := by simpa using hk
      rw [Nat.zero_mul, Nat.zero_add, List.getElem?_append_left (by rwa [length_bitWave ht])]
    | succ k =>
      have htick : (k + 1) * t.tbit + x = (bitWave t b).length + (k * t.tbit + x) := by
        rw [length_bitWave ht]; ring
      rw [htick, List.getElem?_append_right (Nat.le_add_right _ _), Nat.add_sub_cancel_left]
      exact ih (by simpa using hk)

end Legal

/-! ### The waveform of a run of frames (R177, R249) -/

theorem wireWave_append (t : Timing) (l l' : List (Frame × Nat)) :
    wireWave t (l ++ l') = wireWave t l ++ wireWave t l' := by
  induction l with
  | nil => rfl
  | cons fg l ih => rw [List.cons_append, wireWave, wireWave, ih, List.append_assoc _ (wireWave t l)]

/-- The ticks of the gap after a frame of a run are low. -/
theorem getElem?_wireWave_gap {t : Timing} (ht : t.Legal) (before after : List (Frame × Nat)) (f : Frame) {gap x : Nat}
    (hx : x < gap) :
    (wireWave t (before ++ (f, gap) :: after))[(wireWave t before).length + f.length * t.tbit + x]? = some false := by
  have hrest : (frameWave t f ++ (List.replicate gap false ++ wireWave t after))[(frameWave t f).length + x]? =
      some false := by
    rw [List.getElem?_append_right (Nat.le_add_right _ _), Nat.add_sub_cancel_left,
      List.getElem?_append_left (by rwa [List.length_replicate]), List.getElem?_replicate_of_lt hx]
  rw [wireWave_append, wireWave, List.append_assoc, Nat.add_assoc, List.getElem?_append_right (Nat.le_add_right _ _),
    Nat.add_sub_cancel_left, ← length_frameWave ht, hrest]

end Sys2Proof.Machine
end

section
/-!
The statements about the serial protocol driver (spec/43_serial_driver.md).
-/

namespace Sys2Proof.Machine

/-- Settles O36: SHOW's record update, whose frame is the loop's. -/
theorem showAppendsTheFrameOfOut : Obligations.ShowAppendsTheFrameOfOut := fun s =>
  ⟨_, _, _, _, execShowOut_eq s, showLoop_isFrame s⟩

/-- Settles O37: the loop keeps the critical section's registers, and SHOW's frame does not hold `ie`. -/
theorem showMasksInterruptsThroughout : Obligations.ShowMasksInterruptsThroughout := by
  refine fun s => ⟨fun k hk => ?_, showProgress_all s, _, execShowOut_eq s, rfl, rfl⟩
  obtain ⟨hie, htxact, hsaved⟩ := showProgress_critical k s
  exact ⟨hie, htxact, hsaved, showProgress_frame hk⟩

/-- Settles O39: periods of one length follow each other, and SHOW's frame has `24 * N` of them. -/
theorem waveformOfAFrame : Obligations.WaveformOfAFrame := by
  refine ⟨fun t f ht => ⟨length_frameWave ht f, fun k bit x hk hx => ?_⟩, fun s hs => ?_⟩
  · rw [getElem?_frameWave ht hk hx, getElem?_bitWave bit hx]
  · obtain ⟨t, f, hexec, hlog, hlen, -⟩ := exec_showOut_next s
    obtain ⟨-, -, -, -, -, -, -, htiming⟩ := hs.legal
    exact ⟨t, f, hexec, hlog, hlen, hlen ▸ length_frameWave htiming f⟩

/-- Settles O40: a kept gap covers the first `TRESET` ticks after its frame. -/
theorem gapFollowsEachFrame : Obligations.GapFollowsEachFrame := by
  intro t before after f gap x ht hgaps hx
  have hgap : t.treset ≤ gap := hgaps (f, gap) (by simp)
  exact getElem?_wireWave_gap ht before after f (hx.trans_le hgap)

end Sys2Proof.Machine
end

section
/-!
SUPPORT. The lane steps and runs of draws (spec/44_random.md R190 to R193): the formula the four default lane steps share,
the low bits it does not read, and the machine after `k` draws.
-/

namespace Sys2Proof.Machine

/-! ### The default lane steps (R191, R193) -/

/-- The mask that clears the low `d` bits of a word. -/
def highBits (d : Nat) : Word := BitVec.allOnes 32 <<< d

theorem getLsbD_highBits (d : Nat) {i : Nat} (hi : i < 32) : (highBits d).getLsbD i = decide (d ≤ i) := by
  rw [highBits, BitVec.getLsbD_shiftLeft, BitVec.getLsbD_allOnes, decide_eq_true hi,
    decide_eq_true (by omega : i - d < 32), Bool.true_and, Bool.and_true, ← decide_not]
  exact decide_eq_decide.mpr Nat.not_lt

/-- Masked twice is masked once. -/
theorem and_highBits_and_highBits (d : Nat) (z : Word) : z &&& highBits d &&& highBits d = z &&& highBits d := by
  rw [BitVec.and_assoc, BitVec.and_self]

/-- A word below `2 ^ d` has no bit above its low `d`. -/
theorem and_highBits_eq_zero {d : Nat} {z : Word} (h : z.toNat < 2 ^ d) : z &&& highBits d = 0#32 := by
  refine BitVec.eq_of_getLsbD_eq fun i hi => ?_
  rw [BitVec.getLsbD_and, getLsbD_highBits d hi, BitVec.getLsbD_zero]
  by_cases hd : d ≤ i
  · have hz : z.getLsbD i = false := Nat.testBit_lt_two_pow (h.trans_le (Nat.pow_le_pow_right (by decide) hd))
    rw [hz, Bool.false_and]
  · rw [decide_eq_false hd, Bool.and_false]

/-- Bit `i` of the feedback term reads bits `a - q + i` and `a + i` of the lane, none of them below `d`. -/
theorem feedback_and_highBits {d q a : Nat} (h : q + d ≤ a) (z : Word) :
    (((z &&& highBits d) <<< q) ^^^ (z &&& highBits d)) >>> a = ((z <<< q) ^^^ z) >>> a := by
  refine BitVec.eq_of_getLsbD_eq fun i _ => ?_
  simp only [BitVec.getLsbD_ushiftRight, BitVec.getLsbD_xor, BitVec.getLsbD_shiftLeft, BitVec.getLsbD_and]
  by_cases hi : a + i < 32
  · rw [getLsbD_highBits d hi, getLsbD_highBits d (by omega : a + i - q < 32), decide_eq_true (by omega : d ≤ a + i),
      decide_eq_true (by omega : d ≤ a + i - q), Bool.and_true, Bool.and_true]
  · simp [hi, BitVec.getLsbD_of_ge z (a + i) (by omega)]

/-- The one form of the four default lane steps (R191): the lane without its low `d` bits, shifted left by `l`, and the
feedback term. -/
def laneFormula (d l q a : Nat) (z : Word) : Word := ((z &&& highBits d) <<< l) ^^^ (((z <<< q) ^^^ z) >>> a)

theorem lfsr113Step_zero (z : Word) : lfsr113Step 0 z = laneFormula 1 18 6 13 z := rfl

theorem lfsr113Step_one (z : Word) : lfsr113Step 1 z = laneFormula 3 2 2 27 z := rfl

theorem lfsr113Step_two (z : Word) : lfsr113Step 2 z = laneFormula 4 7 13 21 z := rfl

theorem lfsr113Step_three (z : Word) : lfsr113Step 3 z = laneFormula 7 13 3 12 z := rfl

/-- A lane step does not read the bits it masks, when its right shift outruns its left one. -/
theorem laneFormula_and_highBits {d q a : Nat} (h : q + d ≤ a) (l : Nat) (z : Word) :
    laneFormula d l q a (z &&& highBits d) = laneFormula d l q a z := by
  rw [laneFormula, laneFormula, and_highBits_and_highBits, feedback_and_highBits h]

/-- A lane with no other bits dies. -/
theorem laneFormula_eq_zero {d q a : Nat} (h : q + d ≤ a) (l : Nat) {z : Word} (hz : z.toNat < 2 ^ d) :
    laneFormula d l q a z = 0 := by
  rw [← laneFormula_and_highBits h, and_highBits_eq_zero hz]
  simp [laneFormula]

/-! ### Draws (R192) -/

theorem exec_next32 (s : State) : exec .next32 s = .next { s with
    lanes := Lanes.advance s.inst s.lanes
    resp := Lanes.xor (Lanes.advance s.inst s.lanes) } := rfl

/-- `k` draws advance the lanes `k` times; the last draw answers the exclusive-or of the lanes it leaves. -/
theorem execAll_replicate_next32 (k : Nat) (s : State) :
    execAll (List.replicate k .next32) s = .next { s with
      lanes := (Lanes.advance s.inst)^[k] s.lanes
      resp := if k = 0 then s.resp else Lanes.xor ((Lanes.advance s.inst)^[k] s.lanes) } := by
  induction k generalizing s with
  | zero => rfl
  | succ k ih =>
    rw [List.replicate_succ, execAll_cons_of_next (exec_next32 s), ih, Function.iterate_succ_apply]
    cases k <;> rfl

end Sys2Proof.Machine
end

section
/-!
SUPPORT. The harvester by its samples (spec/44_random.md R194 to R199): the bit a sample gives, the bits of a harvested
word, a harvest as one state, and what a stuck port does.
-/

namespace Sys2Proof.Machine

/-! ### Parity (R194) -/

theorem xorBits_cons (b : Bool) (l : List Bool) : xorBits (b :: l) = (b ^^ xorBits l) := by
  rw [xorBits, List.foldl_cons, Bool.false_xor, xorBits, ← List.foldl_assoc (op := fun a b => a ^^ b), Bool.xor_false]

theorem xorBits_append (l l' : List Bool) : xorBits (l ++ l') = (xorBits l ^^ xorBits l') := by
  induction l with
  | nil => exact (Bool.false_xor _).symm
  | cons b l ih => rw [List.cons_append, xorBits_cons, xorBits_cons, ih, Bool.xor_assoc]

/-- Equal bits cancel in pairs. -/
theorem xorBits_replicate (n : Nat) (b : Bool) : xorBits (List.replicate n b) = (decide (n % 2 = 1) && b) := by
  induction n with
  | zero => rfl
  | succ n ih =>
    rw [List.replicate_succ, xorBits_cons, ih]
    rcases Nat.mod_two_eq_zero_or_one n with h | h <;> simp [Nat.add_mod, h]

/-- The four folds bring every one of the 16 bits into bit 0. -/
theorem fold16_eq_xorBits (v : BitVec 16) : fold16 v = xorBits ((List.range 16).map v.getLsbD) := by
  have hcomm : Std.Commutative Bool.xor := ⟨Bool.xor_comm⟩
  simp only [fold16, xorBits, List.range_succ, List.range_zero, List.map_append, List.map_cons, List.map_nil,
    List.foldl_append, List.foldl_cons, List.foldl_nil, BitVec.getLsbD_xor, BitVec.getLsbD_ushiftRight, Nat.reduceAdd,
    Bool.false_xor]
  ac_rfl

/-- The zero extension of a sample adds no one-bits. -/
theorem sampleBit_eq_sampleParity (v : Sample) : sampleBit v = sampleParity v := by
  have hlow : (List.range 12).map (v.setWidth 16).getLsbD = (List.range 12).map v.getLsbD := by
    refine List.map_congr_left fun i hi => ?_
    have hi' : i < 16 := by have := List.mem_range.mp hi; omega
    simp [hi']
  have hhigh : [12, 13, 14, 15].map (v.setWidth 16).getLsbD = List.replicate 4 false := by
    simp [BitVec.getLsbD_of_ge]
  have hsplit : List.range 16 = List.range 12 ++ [12, 13, 14, 15] := by decide
  rw [sampleBit, fold16_eq_xorBits, hsplit, List.map_append, xorBits_append, hlow, hhigh, xorBits_replicate,
    Bool.and_false, Bool.xor_false, sampleParity]

/-! ### The bits of a harvested word (R195, R196) -/

/-- `harvest_bit()` gives the first gathered bit. -/
theorem harvestBit_eq_gatheredBit (s : State) : (harvestBit s.inst.harvestRepeats false s).1 = gatheredBit s 0 := by
  simp only [harvestBit_value, sampleBit_eq_sampleParity, gatheredBit, xorBits, Nat.zero_mul, Nat.zero_add]

/-- After the samples of one bit, the gathered bits are those from the second on. -/
theorem gatheredBit_afterSamples (s : State) (k : Nat) :
    gatheredBit (s.afterSamples s.inst.harvestRepeats) k = gatheredBit s (k + 1) := by
  have hinst : (s.afterSamples s.inst.harvestRepeats).inst = s.inst := rfl
  simp only [gatheredBit, hinst, State.sampleAt_afterSamples, Nat.add_mul, Nat.one_mul, Nat.add_assoc, Nat.add_left_comm]

/-- `(w << 1) | b` bit by bit. -/
theorem getLsbD_shiftIn (w : Word) (b : Bool) {i : Nat} (hi : i < 32) :
    ((w <<< 1) ||| (BitVec.ofBool b).setWidth 32).getLsbD i = if i = 0 then b else w.getLsbD (i - 1) := by
  cases i with
  | zero => simp
  | succ i => simp [hi, BitVec.getLsbD_eq_getElem (Nat.lt_of_succ_lt hi)]

/-- `count` more bits are gathered into the low end, the first one highest; what was there moves up. -/
theorem getLsbD_harvestWord (count : Nat) (w : Word) (s : State) {i : Nat} (hi : i < 32) :
    (harvestWord count w s).1.getLsbD i =
      if i < count then gatheredBit s (count - 1 - i) else w.getLsbD (i - count) := by
  induction count generalizing w s with
  | zero => rfl
  | succ count ih =>
    rw [harvestWord, ih, harvestBit_state, gatheredBit_afterSamples, getLsbD_shiftIn _ _ (by omega),
      harvestBit_eq_gatheredBit]
    rcases Nat.lt_trichotomy i count with h | rfl | h
    · rw [if_pos h, if_pos (by omega), show count - 1 - i + 1 = count + 1 - 1 - i by omega]
    · simp
    · rw [if_neg (by omega), if_neg (by omega), if_neg (by omega), Nat.sub_sub]

/-- The `k`-th gathered bit of a harvest is bit `31 - k` of its word. -/
theorem getLsbD_harvestWord_all (s : State) {k : Nat} (hk : k < 32) :
    (harvestWord 32 0 s).1.getLsbD (31 - k) = gatheredBit s k := by
  rw [getLsbD_harvestWord 32 0 s (by omega), if_pos (by omega), show 32 - 1 - (31 - k) = k by omega]

/-! ### Four harvests (R198) -/

/-- The machine after HARVEST32. -/
def State.harvested (s : State) : State := (harvest s).respond (harvest s).acc

theorem exec_harvest32 (s : State) : exec .harvest32 s = .next s.harvested := rfl

theorem State.harvested_acc (s : State) : s.harvested.acc = s.acc ^^^ (harvestWord 32 0 s).1 := rfl

/-- A harvest reads neither the lanes nor the last response. -/
theorem harvest_lanes_resp (s : State) (z : Lanes) (r : Word) :
    harvest { s with lanes := z, resp := r } = { harvest s with lanes := z, resp := r } := by
  have hw : (harvestWord 32 0 { s with lanes := z, resp := r }).1 = (harvestWord 32 0 s).1 :=
    harvestWord_congr 32 0 rfl fun _ _ => rfl
  rw [harvest_eq, harvest_eq, hw]
  rfl

@[simp] theorem State.harvested_inst (s : State) : s.harvested.inst = s.inst := by
  rw [State.harvested, State.respond_inst, harvest_eq]
  rfl

theorem State.harvested_sampleAt (s : State) (k : Nat) :
    s.harvested.sampleAt k = s.sampleAt (32 * s.inst.harvestRepeats + k) := by
  rw [State.harvested, harvest_eq, ← State.sampleAt_afterSamples]
  rfl

theorem State.harvested_lanes (s : State) (z : Lanes) :
    ({ s with lanes := z } : State).harvested = { s.harvested with lanes := z } := by
  simp only [State.harvested, harvest_lanes_resp s z s.resp, State.respond]

/-- RESEED's loop is four HARVEST32, each lane the answer of its own; the last response is not its concern. -/
theorem loadLanes_eq_harvested (s : State) : loadLanes s = { s.harvested.harvested.harvested.harvested with
    lanes := ⟨s.harvested.acc, s.harvested.harvested.acc, s.harvested.harvested.harvested.acc,
      s.harvested.harvested.harvested.harvested.acc⟩
    resp := s.resp } := by
  have hstep : ∀ (u : State) (z : Lanes) (k : Fin 4), harvestIntoLane { u with lanes := z, resp := s.resp } k =
      { u.harvested with lanes := Lanes.put z k u.harvested.acc, resp := s.resp } := by
    intro u z k
    simp only [harvestIntoLane, harvest_lanes_resp, State.harvested, State.respond]
  have hfirst : harvestIntoLane s 0 = _ := hstep s s.lanes 0
  simp only [loadLanes, List.foldl_cons, List.foldl_nil, hfirst, hstep, Lanes.put]

theorem loadLanes_lanes (s : State) (z : Lanes) : loadLanes { s with lanes := z } = loadLanes s := by
  simp only [loadLanes_eq_harvested, State.harvested_lanes]

/-- RESEED when the harvested lanes do not cancel: they stay (R197, R198). -/
theorem exec_reseed_of_ne_zero {s : State} (h : Lanes.xor (loadLanes s).lanes ≠ 0) : exec .reseed s = .next { s with
    lanes := (loadLanes s).lanes
    acc := (loadLanes s).acc
    seedOk := true
    resp := 1
    entropy := s.entropy.drop (128 * s.inst.harvestRepeats)
    samplesRead := s.samplesRead + 128 * s.inst.harvestRepeats } := by
  have hd : Lanes.degenerate (loadLanes s).lanes = false := beq_eq_false_iff_ne.mpr h
  rw [exec, execReseed_eq, seededLanes, hd]
  rfl

/-- RESEED when the harvested lanes cancel: `SEED_DEFAULT` in all four (R197, R198). -/
theorem exec_reseed_of_eq_zero {s : State} (h : Lanes.xor (loadLanes s).lanes = 0) : exec .reseed s = .next { s with
    lanes := Lanes.all s.inst.seedDefault
    acc := (loadLanes s).acc
    seedOk := false
    resp := 0
    entropy := s.entropy.drop (128 * s.inst.harvestRepeats)
    samplesRead := s.samplesRead + 128 * s.inst.harvestRepeats } := by
  have hd : Lanes.degenerate (loadLanes s).lanes = true := beq_iff_eq.mpr h
  rw [exec, execReseed_eq, seededLanes, hd]
  rfl

/-! ### A stuck port (R196, R199) -/

/-- The samples of the next `m` gathered bits all equal `v`. -/
def State.StuckFor (s : State) (v : Sample) (m : Nat) : Prop := ∀ k, k < m * s.inst.harvestRepeats → s.sampleAt k = v

/-- The word a harvest gathers from a port stuck at `v`: all ones or 0. -/
def stuckWord (reps : Nat) (v : Sample) : Word := BitVec.fill 32 (decide (reps % 2 = 1) && sampleParity v)

theorem stuckWord_of_odd {reps : Nat} {v : Sample} (hodd : reps % 2 = 1) (hv : sampleParity v = true) :
    stuckWord reps v = BitVec.allOnes 32 := by
  rw [stuckWord, hodd, hv]
  rfl

theorem stuckWord_of_even_or {reps : Nat} {v : Sample} (h : reps % 2 = 0 ∨ sampleParity v = false) :
    stuckWord reps v = 0#32 := by
  rcases h with heven | hv
  · rw [stuckWord, heven]
    rfl
  · rw [stuckWord, hv, Bool.and_false]
    rfl

/-- Every bit gathered from a stuck port is the same. -/
theorem State.StuckFor.gatheredBit_eq {s : State} {v : Sample} {m k : Nat} (h : s.StuckFor v m) (hk : k < m) :
    gatheredBit s k = (decide (s.inst.harvestRepeats % 2 = 1) && sampleParity v) := by
  have hv : ∀ r ∈ List.range s.inst.harvestRepeats,
      sampleParity (s.sampleAt (k * s.inst.harvestRepeats + r)) = sampleParity v := by
    intro r hr
    have hr' : r < s.inst.harvestRepeats := List.mem_range.mp hr
    have hle : (k + 1) * s.inst.harvestRepeats ≤ m * s.inst.harvestRepeats := Nat.mul_le_mul_right _ hk
    rw [Nat.add_mul, Nat.one_mul] at hle
    rw [h _ (by omega)]
  rw [gatheredBit, List.map_congr_left hv, List.map_const', List.length_range, xorBits_replicate]

theorem State.StuckFor.harvested_acc {s : State} {v : Sample} {m : Nat} (h : s.StuckFor v (32 + m)) :
    s.harvested.acc = s.acc ^^^ stuckWord s.inst.harvestRepeats v := by
  have hw : (harvestWord 32 0 s).1 = stuckWord s.inst.harvestRepeats v := by
    refine BitVec.eq_of_getLsbD_eq fun i hi => ?_
    rw [getLsbD_harvestWord 32 0 s hi, if_pos hi, h.gatheredBit_eq (by omega), stuckWord, BitVec.getLsbD_fill,
      decide_eq_true hi, Bool.and_true]
  rw [State.harvested_acc, hw]

/-- After a harvest the port is stuck for 32 bits fewer. -/
theorem State.StuckFor.harvested {s : State} {v : Sample} {m : Nat} (h : s.StuckFor v (32 + m)) :
    s.harvested.StuckFor v m := by
  intro k hk
  rw [State.harvested_inst] at hk
  rw [State.harvested_sampleAt]
  exact h _ (by rw [Nat.add_mul]; omega)

/-- Two harvests from a stuck port cancel. -/
theorem State.StuckFor.harvested_harvested_acc {s : State} {v : Sample} {m : Nat} (h : s.StuckFor v (32 + (32 + m))) :
    s.harvested.harvested.acc = s.acc := by
  rw [h.harvested.harvested_acc, h.harvested_acc, State.harvested_inst, BitVec.xor_assoc, BitVec.xor_self,
    BitVec.xor_zero]

/-- Lanes 0 and 2 are then equal, and lanes 1 and 3. -/
theorem State.StuckFor.loadLanes {s : State} {v : Sample} (h : s.StuckFor v 128) :
    Lanes.xor (Machine.loadLanes s).lanes = 0 ∧ (Machine.loadLanes s).acc = s.acc := by
  have h0 : s.StuckFor v (32 + (32 + 64)) := h
  have h1 : s.harvested.StuckFor v (32 + (32 + 32)) := h0.harvested
  have h2 : s.harvested.harvested.StuckFor v (32 + (32 + 0)) := h1.harvested
  rw [loadLanes_eq_harvested]
  refine ⟨?_, h2.harvested_harvested_acc.trans h0.harvested_harvested_acc⟩
  rw [Lanes.xor, h2.harvested_harvested_acc, h1.harvested_harvested_acc, BitVec.xor_assoc (s.harvested.acc ^^^ _),
    BitVec.xor_comm s.harvested.acc]
  exact BitVec.xor_self

end Sys2Proof.Machine
end

section
/-!
The statements about the random source (spec/44_random.md).
-/

namespace Sys2Proof.Machine

/-- Settles O43: NEXT32 is one record update; the three draws from reset are evaluations of the lanes alone. -/
theorem next32AdvancesTheLanes : Obligations.Next32AdvancesTheLanes := by
  refine ⟨fun s => exec_next32 s, fun p z hp => ?_, _, _, _, rfl, rfl, rfl, by decide, by decide, by decide, by decide⟩
  simp only [laneStep, hp, lfsr113Step, and_self]

/-- Settles O44: the four default steps are one formula, whose right shift outruns its left one by the dead bits. -/
theorem lowLaneBitsAreIgnored : Obligations.LowLaneBitsAreIgnored := by
  intro z
  simp only [lfsr113Step_zero, lfsr113Step_one, lfsr113Step_two, lfsr113Step_three]
  exact ⟨laneFormula_and_highBits (by decide) 18 z, laneFormula_and_highBits (by decide) 2 z,
    laneFormula_and_highBits (by decide) 7 z, laneFormula_and_highBits (by decide) 13 z,
    laneFormula_eq_zero (d := 1) (by decide) 18, laneFormula_eq_zero (d := 3) (by decide) 2,
    laneFormula_eq_zero (d := 4) (by decide) 7, laneFormula_eq_zero (d := 7) (by decide) 13⟩

/-- Settles O45: after `k` draws the lanes, and after at least one the response, are functions of the parameters
and the lanes at the start. -/
theorem drawsAreDeterminedByTheLanes : Obligations.DrawsAreDeterminedByTheLanes := by
  intro s s' k hinst hlanes
  refine ⟨_, _, execAll_replicate_next32 k s, execAll_replicate_next32 k s', ?_, fun hk => ?_⟩
  · simp only [hinst, hlanes]
  · simp only [hinst, hlanes, if_neg (Nat.ne_of_gt hk)]

/-- Settles O46: each fold brings the upper half of the bits into the lower. -/
theorem fold16IsTheParity : Obligations.Fold16IsTheParity := fold16_eq_xorBits

/-- Settles O47: HARVEST32's word, bit by bit. -/
theorem harvestFoldsItsSamples : Obligations.HarvestFoldsItsSamples := fun s =>
  ⟨_, execHarvest32_eq s, fun _ hk => getLsbD_harvestWord_all s hk⟩

/-- Settles O48: RESEED's loop is four harvests; their accumulators cancel or not. -/
theorem reseedLoadsFourHarvests : Obligations.ReseedLoadsFourHarvests := by
  intro s
  have hload := loadLanes_eq_harvested s
  have hent : s.harvested.harvested.harvested.harvested.entropy = s.entropy.drop (128 * s.inst.harvestRepeats) := by
    simpa only [hload] using congrArg State.entropy (loadLanes_eq s)
  have hread : s.harvested.harvested.harvested.harvested.samplesRead =
      s.samplesRead + 128 * s.inst.harvestRepeats := by
    simpa only [hload] using congrArg State.samplesRead (loadLanes_eq s)
  refine ⟨_, _, _, _, exec_harvest32 s, exec_harvest32 _, exec_harvest32 _, exec_harvest32 _, fun h => ?_, fun h => ?_⟩
  · rw [exec_reseed_of_ne_zero (by rwa [hload]), hload, hent, hread]
  · rw [exec_reseed_of_eq_zero (by rwa [hload]), hload, hent, hread]
    rfl

/-- Settles O49: a stuck port gives one word four times, so the accumulators cancel in pairs and the last is the first. -/
theorem stuckPortFailsTheReseed : Obligations.StuckPortFailsTheReseed := by
  intro s v hstuck
  obtain ⟨hxor, hacc⟩ := State.StuckFor.loadLanes (s := s) (v := v) hstuck
  rw [exec_reseed_of_eq_zero hxor, hacc]
  rfl

/-- Settles O50: the stuck port's word is all ones or 0. -/
theorem stuckPortHarvest : Obligations.StuckPortHarvest := by
  intro s v hstuck
  have hacc : s.harvested.acc = s.acc ^^^ stuckWord s.inst.harvestRepeats v :=
    State.StuckFor.harvested_acc (m := 0) hstuck
  refine ⟨_, exec_harvest32 s, fun ⟨hodd, hv⟩ => ?_, fun h => ?_⟩
  · rw [hacc, stuckWord_of_odd hodd hv, BitVec.xor_allOnes]
  · rw [hacc, stuckWord_of_even_or h, BitVec.xor_zero]

/-- Settles O51: RESEED's loop writes all four lanes and reads none. -/
theorem reseedForgetsTheLanes : Obligations.ReseedForgetsTheLanes := by
  intro s z
  rw [exec, exec, execReseed, execReseed, loadLanes_lanes]

end Sys2Proof.Machine
end

section
/-!
The statement that nothing stops PXE (spec/60_exceptions.md R210): every command completes, and so does every step.
-/

namespace Sys2Proof.Machine

/-- R210: every command completes, whatever its operands and whatever the state. -/
theorem exec_answers (i : Instr) (s : State) : ∃ t, exec i s = .next t := by
  obtain ⟨t, ht, -⟩ := exec_next_frame i s
  exact ⟨t, ht⟩

/-- A presented word completes, a reserved one as the NOP it runs as (R86, log entry 15). -/
theorem runCommand_answers (cw : CommandWord) (s : State) : ∃ t, runCommand cw s = .next t := by
  obtain ⟨i, -, hrun⟩ := runCommand_eq_exec cw s
  exact hrun ▸ exec_answers i s

/-- Every step answers, by the port's first move: an empty port is idle, `setIe` writes `ie`, a command completes
(log entry 1). -/
theorem step_answers (s : State) : ∃ t, step s = .next t :=
  match hp : s.port with
  | [] => ⟨_, step_of_port_nil hp⟩
  | .setIe _ :: _ => ⟨_, step_of_port_setIe hp⟩
  | .command cw :: rest => step_of_port_command hp ▸ runCommand_answers cw { s with port := rest }

/-- Settles O55: the fault type has no constructor; steps and commands answer by the lemmas above. -/
theorem everyStepAnswersANextState : Obligations.EveryStepAnswersANextState :=
  ⟨⟨nofun⟩, step_answers, exec_answers⟩

end Sys2Proof.Machine
end

section
/-!
The statement that BLANK and SHOW turn the strip dark (spec/70_reset_and_hazards.md R244).
-/

namespace Sys2Proof.Machine

/-- Every byte a black pixel puts on the wire is 0 (R173). -/
@[simp] theorem wireByte_black (j : Nat) : wireByte Pixel.black j = 0 :=
  match j with
  | 0 | 1 | _ + 2 => rfl

/-- The frame of `n` black pixels is `24 * n` zeros (R173, R174). -/
theorem IsFrame.eq_replicate_of_black {f : Frame} {n : Nat} (h : IsFrame f n fun _ => Pixel.black) :
    f = List.replicate (24 * n) false := by
  obtain ⟨hlen, hsym⟩ := h
  refine List.ext_getElem? fun k => ?_
  by_cases hk : k < 24 * n
  · rw [hsym k hk, List.getElem?_replicate_of_lt hk]
    simp [wireSymbol]
  · rw [List.getElem?_eq_none (by omega), List.getElem?_eq_none (by simpa using hk)]

/-- Settles O42: BLANK publishes brightness 0, so every pixel of the frame SHOW sends is black. -/
theorem blankThenShowSendsZeros : Obligations.BlankThenShowSendsZeros := by
  intro s hs
  obtain ⟨t, f, ht, hlog, hframe⟩ := exec_showOut_next ((s.publish 0 0).respond 0)
  have hblack : IsFrame f s.inst.n fun _ => Pixel.black := hframe.congr fun i hi =>
    (pixel_publish hs 0 0 hi).trans (publishedPixel_zero s.work 0 i)
  exact ⟨t, (execAll_cons_of_next (exec_copyOut 0 0 s) _).trans (execAll_cons_of_next ht _),
    hblack.eq_replicate_of_black ▸ hlog⟩

end Sys2Proof.Machine
end
